-- ==== Sys2Proof/Word.lean ====
section
/-! DEFINITION. The two word types of the core: the 8-bit data byte and the 16-bit address (rules R5, R7). -/

namespace Sys2Proof

/-- A data byte, the `u8` of rule R7: A, X, Y, SP, P and every memory cell (rule R5). -/
abbrev Byte := BitVec 8

/-- A 16-bit address or PC value, the `u16` of rule R7. -/
abbrev Addr := BitVec 16

end Sys2Proof
end

