-- ==== Sys2Proof/Config.lean ====
section
/-! DEFINITION. The implementation parameters of rule R5 that are values: all are fixed by the spec, none is free.
The spec leaves no value of any instruction open, so this model has no free value. -/

namespace Sys2Proof.Config

/-- The base of the stack page 0x0100-0x01FF (rules R5, R35). -/
def stackPage : Addr := 0x0100

/-- Where BRK finds the low byte of its continuation address (rules R5, R65 (a), R211). -/
def vectorLow : Addr := 0xFFFE

/-- Where BRK finds the high byte of its continuation address (rules R5, R65 (a), R211). -/
def vectorHigh : Addr := 0xFFFF

/-- The first address above the mirrored 2048-byte RAM block (rule R61). -/
def ramEnd : Nat := 0x2000

/-- The size of the RAM block that 0x0000-0x1FFF mirrors (rule R61). -/
def ramSize : Nat := 2048

/-- The first address above the mirrored 8-byte block (rule R61). -/
def ppuEnd : Nat := 0x4000

/-- The size of the block that 0x2000-0x3FFF mirrors (rule R61). -/
def ppuSize : Nat := 8

/-- The number of logical addresses, all of them valid (rules R5, R60). -/
def addressSpace : Nat := 65536

/-- What a cell of memory "constructed empty" holds (rule R300). -/
def emptyByte : Byte := 0x00

end Sys2Proof.Config
end

