-- ==== Sys2Proof/Syntax/Operand.lean ====
section
/-! DEFINITION. The parts instructions are written with: the 12 addressing modes (rule R92), the mnemonics (rules R93, R253)
and the operand forms. Each operand form carries the operand bytes its mode uses, a two-byte operand as one 16-bit address
(its byte order is decided once, in Decode.lean). -/

namespace Sys2Proof

/-- The 12 addressing modes of rule R92; `implied` is the mode the source names None. -/
inductive Mode where
  | implied | relative | absolute | absoluteX | absoluteY | indirect | immediate
  | indexedIndirect | indirectIndexed | zeroPage | zeroPageX | zeroPageY
  deriving DecidableEq, Repr

/-- The 18 undocumented mnemonics, decoded but not executed (rules R4 (f), R253), in the order of rule R277. -/
inductive Undocumented where
  | slo | rla | sre | rra | dcp | isc | anc | alr | arr | xaa | lax | sax | ahx | tas | shy | shx | las | axs
  deriving DecidableEq, Repr

/-- What a decode table entry names: the 56 official mnemonics, STP, and the undocumented ones (rules R91, R94). -/
inductive Mnemonic where
  | adc | and | asl | bcc | bcs | beq | bit | bmi | bne | bpl | brk | bvc | bvs | clc
  | cld | cli | clv | cmp | cpx | cpy | dec | dex | dey | eor | inc | inx | iny | jmp
  | jsr | lda | ldx | ldy | lsr | nop | ora | pha | php | pla | plp | rol | ror | rti
  | rts | sbc | sec | sed | sei | sta | stx | sty | tax | tay | tsx | txa | txs | tya
  | stp
  | undocumented (u : Undocumented)
  deriving DecidableEq, Repr

/-- An operand in memory: the eight modes that give a data address (rules R98 to R105). -/
inductive MemOperand where
  | zeroPage (b1 : Byte)
  | zeroPageX (b1 : Byte)
  | zeroPageY (b1 : Byte)
  | absolute (addr : Addr)
  | absoluteX (addr : Addr)
  | absoluteY (addr : Addr)
  | indexedIndirect (b1 : Byte)
  | indirectIndexed (b1 : Byte)
  deriving DecidableEq, Repr

/-- An operand that is read: an inline literal or a byte of memory (rule R135). -/
inductive ReadOperand where
  | immediate (b1 : Byte)
  | memory (m : MemOperand)
  deriving DecidableEq, Repr

/-- The operand of a shift or rotate: the accumulator (mode None) or a byte of memory (rule R175). -/
inductive ShiftOperand where
  | accumulator
  | memory (m : MemOperand)
  deriving DecidableEq, Repr

/-- The operand of JMP (rule R208). -/
inductive JumpOperand where
  | absolute (addr : Addr)
  | indirect (pointer : Addr)
  deriving DecidableEq, Repr

/-- The operand of a NOP encoding, which nothing uses (rule R234). -/
inductive NopOperand where
  | implied
  | immediate (b1 : Byte)
  | memory (m : MemOperand)
  deriving DecidableEq, Repr

/-- The addressing mode an operand form stands for (rule R92). -/
def MemOperand.mode : MemOperand → Mode
  | .zeroPage _ => .zeroPage
  | .zeroPageX _ => .zeroPageX
  | .zeroPageY _ => .zeroPageY
  | .absolute _ => .absolute
  | .absoluteX _ => .absoluteX
  | .absoluteY _ => .absoluteY
  | .indexedIndirect _ => .indexedIndirect
  | .indirectIndexed _ => .indirectIndexed

@[inherit_doc MemOperand.mode]
def ReadOperand.mode : ReadOperand → Mode
  | .immediate _ => .immediate
  | .memory m => m.mode

/-- Mode None is the accumulator form (rules R92, R175). -/
def ShiftOperand.mode : ShiftOperand → Mode
  | .accumulator => .implied
  | .memory m => m.mode

@[inherit_doc MemOperand.mode]
def JumpOperand.mode : JumpOperand → Mode
  | .absolute _ => .absolute
  | .indirect _ => .indirect

@[inherit_doc MemOperand.mode]
def NopOperand.mode : NopOperand → Mode
  | .implied => .implied
  | .immediate _ => .immediate
  | .memory m => m.mode

end Sys2Proof
end

