-- ==== Sys2Proof/Syntax.lean ====
section
/-! DEFINITION. The instructions: one constructor of Instr for each of the 75 mnemonics of spec/opcode_table.json, with the
operand form as its argument, because the core dispatches by mnemonic (rules R94, R136). Where several opcodes share a
mnemonic and a mode (NOP, STP, SBC Immediate, ANC), the constructor also carries the opcode byte, so that each of the 256 rows
of the table is an instruction of its own (assumption 1). Each constructor's comment names its rule. -/

namespace Sys2Proof

/-- One instruction as decoded: the mnemonic and its operand form (rules R90, R93). -/
inductive Instr where
  -- Arithmetic (41_arith.md)
  | adc (o : ReadOperand)  -- R161
  | sbc (opcode : Byte) (o : ReadOperand)  -- R162
  -- Bitwise logic (42_logic.md)
  | and (o : ReadOperand)  -- R170
  | ora (o : ReadOperand)  -- R171
  | eor (o : ReadOperand)  -- R172
  -- Shifts and rotates (43_shift.md)
  | asl (o : ShiftOperand)  -- R176
  | lsr (o : ShiftOperand)  -- R177
  | rol (o : ShiftOperand)  -- R178
  | ror (o : ShiftOperand)  -- R179
  -- Comparisons (44_compare.md)
  | cmp (o : ReadOperand)  -- R183
  | cpx (o : ReadOperand)  -- R184
  | cpy (o : ReadOperand)  -- R185
  -- Increment and decrement (45_incdec.md)
  | inc (m : MemOperand)  -- R188
  | dec (m : MemOperand)  -- R189
  | inx  -- R190
  | iny  -- R191
  | dex  -- R192
  | dey  -- R193
  -- Conditional branches and BIT (46_branch_bit.md)
  | bcc (b1 : Byte)  -- R197
  | bcs (b1 : Byte)  -- R198
  | beq (b1 : Byte)  -- R199
  | bmi (b1 : Byte)  -- R200
  | bne (b1 : Byte)  -- R201
  | bpl (b1 : Byte)  -- R202
  | bvc (b1 : Byte)  -- R203
  | bvs (b1 : Byte)  -- R204
  | bit (m : MemOperand)  -- R205
  -- Jumps, calls, BRK and RTI (47_jump.md)
  | jmp (o : JumpOperand)  -- R208
  | jsr (addr : Addr)  -- R209
  | rts  -- R210
  | brk  -- R211
  | rti  -- R212
  -- Stack, transfers, flags, NOP and STP (48_stack_transfer_flags.md)
  | pha  -- R217
  | php  -- R218
  | pla  -- R219
  | plp  -- R220
  | tax  -- R221
  | tay  -- R222
  | txa  -- R223
  | tya  -- R224
  | txs  -- R225
  | tsx  -- R226
  | sec  -- R227
  | clc  -- R228
  | sei  -- R229
  | cli  -- R230
  | sed  -- R231
  | cld  -- R232
  | clv  -- R233
  | nop (opcode : Byte) (o : NopOperand)  -- R234
  | stp (opcode : Byte)  -- R235
  -- Loads and stores (49_load_store_undocumented.md)
  | lda (o : ReadOperand)  -- R247
  | ldx (o : ReadOperand)  -- R248
  | ldy (o : ReadOperand)  -- R249
  | sta (m : MemOperand)  -- R250
  | stx (m : MemOperand)  -- R251
  | sty (m : MemOperand)  -- R252
  -- Undocumented mnemonics, which raise the unimplemented-mnemonic fault (49_load_store_undocumented.md)
  | slo (m : MemOperand)  -- R254
  | rla (m : MemOperand)  -- R255
  | sre (m : MemOperand)  -- R256
  | rra (m : MemOperand)  -- R257
  | dcp (m : MemOperand)  -- R258
  | isc (m : MemOperand)  -- R259
  | anc (opcode : Byte) (b1 : Byte)  -- R260
  | alr (b1 : Byte)  -- R261
  | arr (b1 : Byte)  -- R262
  | xaa (b1 : Byte)  -- R263
  | lax (o : ReadOperand)  -- R264
  | sax (m : MemOperand)  -- R265
  | ahx (m : MemOperand)  -- R266
  | tas (addr : Addr)  -- R267
  | shy (addr : Addr)  -- R268
  | shx (addr : Addr)  -- R269
  | las (addr : Addr)  -- R270
  | axs (b1 : Byte)  -- R271
  deriving DecidableEq, Repr

/-- The mnemonic an instruction has in the decode table (rule R93). -/
def Instr.mnemonic : Instr → Mnemonic
  | .adc _ => .adc
  | .sbc _ _ => .sbc
  | .and _ => .and
  | .ora _ => .ora
  | .eor _ => .eor
  | .asl _ => .asl
  | .lsr _ => .lsr
  | .rol _ => .rol
  | .ror _ => .ror
  | .cmp _ => .cmp
  | .cpx _ => .cpx
  | .cpy _ => .cpy
  | .inc _ => .inc
  | .dec _ => .dec
  | .inx => .inx
  | .iny => .iny
  | .dex => .dex
  | .dey => .dey
  | .bcc _ => .bcc
  | .bcs _ => .bcs
  | .beq _ => .beq
  | .bmi _ => .bmi
  | .bne _ => .bne
  | .bpl _ => .bpl
  | .bvc _ => .bvc
  | .bvs _ => .bvs
  | .bit _ => .bit
  | .jmp _ => .jmp
  | .jsr _ => .jsr
  | .rts => .rts
  | .brk => .brk
  | .rti => .rti
  | .pha => .pha
  | .php => .php
  | .pla => .pla
  | .plp => .plp
  | .tax => .tax
  | .tay => .tay
  | .txa => .txa
  | .tya => .tya
  | .txs => .txs
  | .tsx => .tsx
  | .sec => .sec
  | .clc => .clc
  | .sei => .sei
  | .cli => .cli
  | .sed => .sed
  | .cld => .cld
  | .clv => .clv
  | .nop _ _ => .nop
  | .stp _ => .stp
  | .lda _ => .lda
  | .ldx _ => .ldx
  | .ldy _ => .ldy
  | .sta _ => .sta
  | .stx _ => .stx
  | .sty _ => .sty
  | .slo _ => .undocumented .slo
  | .rla _ => .undocumented .rla
  | .sre _ => .undocumented .sre
  | .rra _ => .undocumented .rra
  | .dcp _ => .undocumented .dcp
  | .isc _ => .undocumented .isc
  | .anc _ _ => .undocumented .anc
  | .alr _ => .undocumented .alr
  | .arr _ => .undocumented .arr
  | .xaa _ => .undocumented .xaa
  | .lax _ => .undocumented .lax
  | .sax _ => .undocumented .sax
  | .ahx _ => .undocumented .ahx
  | .tas _ => .undocumented .tas
  | .shy _ => .undocumented .shy
  | .shx _ => .undocumented .shx
  | .las _ => .undocumented .las
  | .axs _ => .undocumented .axs

/-- The addressing mode an instruction has in the decode table (rules R92, R93). -/
def Instr.mode : Instr → Mode
  | .adc o | .sbc _ o | .and o | .ora o | .eor o | .cmp o | .cpx o | .cpy o | .lda o | .ldx o | .ldy o | .lax o =>
    o.mode
  | .asl o | .lsr o | .rol o | .ror o => o.mode
  | .inc o | .dec o | .bit o | .sta o | .stx o | .sty o | .slo o | .rla o | .sre o | .rra o | .dcp o | .isc o | .sax o
    | .ahx o => o.mode
  | .jmp o => o.mode
  | .nop _ o => o.mode
  | .bcc _ | .bcs _ | .beq _ | .bmi _ | .bne _ | .bpl _ | .bvc _ | .bvs _ => .relative
  | .anc _ _ | .alr _ | .arr _ | .xaa _ | .axs _ => .immediate
  | .jsr _ => .absolute
  | .shy _ => .absoluteX
  | .tas _ | .shx _ | .las _ => .absoluteY
  | .inx | .iny | .dex | .dey | .rts | .brk | .rti | .pha | .php | .pla | .plp | .tax | .tay | .txa | .tya | .txs |
    .tsx | .sec | .clc | .sei | .cli | .sed | .cld | .clv | .stp _ => .implied

end Sys2Proof
end

