-- ==== Sys2Proof/WellFormed.lean ====
section
/-! DEFINITION. Which instructions exist: an instruction is well formed when its operand form (and, where the constructor
carries it, its opcode byte) is one that the "Encoding" line of its own rule lists. The lists here are transcribed from those
lines, rule by rule, and not from the map of rule R93, so that the decode theorems check one against the other. -/

namespace Sys2Proof

/-- The memory modes of the eight ALU-style encodings (rules R161, R162, R170 to R172, R183, R247), STA's too (R250). -/
def aluModes : List Mode :=
  [.zeroPage, .zeroPageX, .absolute, .absoluteX, .absoluteY, .indexedIndirect, .indirectIndexed]

/-- The memory modes of the read-modify-write encodings (rules R176 to R179, R188, R189). -/
def rmwModes : List Mode := [.zeroPage, .zeroPageX, .absolute, .absoluteX]

/-- The NOP encodings of rule R234, the official 0xEA first. -/
def nopEncodings : List (Byte × Mode) :=
  [(0xEA, .implied),
   (0x1A, .implied), (0x3A, .implied), (0x5A, .implied), (0x7A, .implied), (0xDA, .implied), (0xFA, .implied),
   (0x80, .immediate), (0x82, .immediate), (0x89, .immediate), (0xC2, .immediate), (0xE2, .immediate),
   (0x04, .zeroPage), (0x44, .zeroPage), (0x64, .zeroPage),
   (0x14, .zeroPageX), (0x34, .zeroPageX), (0x54, .zeroPageX),
   (0x74, .zeroPageX), (0xD4, .zeroPageX), (0xF4, .zeroPageX),
   (0x0C, .absolute),
   (0x1C, .absoluteX), (0x3C, .absoluteX), (0x5C, .absoluteX),
   (0x7C, .absoluteX), (0xDC, .absoluteX), (0xFC, .absoluteX)]

/-- The STP encodings of rule R235. -/
def stpEncodings : List Byte :=
  [0x02, 0x12, 0x22, 0x32, 0x42, 0x52, 0x62, 0x72, 0x92, 0xB2, 0xD2, 0xF2]

/-- The SBC encodings of rule R162; 0xEB is the undocumented second Immediate one. -/
def sbcEncodings : List (Byte × Mode) :=
  [(0xE9, .immediate), (0xEB, .immediate), (0xE5, .zeroPage), (0xF5, .zeroPageX), (0xED, .absolute),
   (0xFD, .absoluteX), (0xF9, .absoluteY), (0xE1, .indexedIndirect), (0xF1, .indirectIndexed)]

/-- The ANC encodings of rule R260, both Immediate. -/
def ancEncodings : List Byte := [0x0B, 0x2B]

/-- The instruction's form is one its rule's "Encoding" line lists. -/
def Instr.wellFormed : Instr → Bool
  | .adc o | .and o | .ora o | .eor o | .cmp o | .lda o => (.immediate :: aluModes).contains o.mode
  | .sbc op o => sbcEncodings.contains (op, o.mode)
  | .asl o | .lsr o | .rol o | .ror o => (.implied :: rmwModes).contains o.mode
  | .cpx o | .cpy o => [Mode.immediate, .zeroPage, .absolute].contains o.mode
  | .inc m | .dec m => rmwModes.contains m.mode
  | .bit m => [Mode.zeroPage, .absolute].contains m.mode
  | .nop op o => nopEncodings.contains (op, o.mode)
  | .stp op => stpEncodings.contains op
  | .ldx o => [Mode.immediate, .zeroPage, .zeroPageY, .absolute, .absoluteY].contains o.mode
  | .ldy o => [Mode.immediate, .zeroPage, .zeroPageX, .absolute, .absoluteX].contains o.mode
  | .sta m => aluModes.contains m.mode
  | .stx m => [Mode.zeroPage, .zeroPageY, .absolute].contains m.mode
  | .sty m => [Mode.zeroPage, .zeroPageX, .absolute].contains m.mode
  | .slo m | .rla m | .sre m | .rra m | .dcp m | .isc m => aluModes.contains m.mode
  | .anc op _ => ancEncodings.contains op
  | .lax o =>
    [Mode.immediate, .zeroPage, .zeroPageY, .absolute, .absoluteY, .indexedIndirect, .indirectIndexed].contains o.mode
  | .sax m => [Mode.zeroPage, .zeroPageY, .absolute, .indexedIndirect].contains m.mode
  | .ahx m => [Mode.absoluteY, .indirectIndexed].contains m.mode
  | .inx | .iny | .dex | .dey | .bcc _ | .bcs _ | .beq _ | .bmi _ | .bne _ | .bpl _ | .bvc _ | .bvs _ | .jmp _ | .jsr _
  | .rts | .brk | .rti | .pha | .php | .pla | .plp | .tax | .tay | .txa | .tya | .txs | .tsx | .sec | .clc | .sei
  | .cli | .sed | .cld | .clv | .alr _ | .arr _ | .xaa _ | .tas _ | .shy _ | .shx _ | .las _ | .axs _ => true

end Sys2Proof
end

