-- ==== Sys2Proof/Decode.lean ====
section
/-! DEFINITION. Decoding bytes to instructions and encoding instructions to bytes. The decoder follows the map of rule R93 and
the mode-to-length table of rule R92; the encoder follows the "Encoding" lines of the instruction rules. Decoding is total on any
list of bytes and rejects by name. The byte order of a two-byte operand is decided here, once (rules R65 (c), R90). -/

namespace Sys2Proof

/-- `hi * 256 + lo`, the 16-bit value of a high and a low byte (rule R7). -/
def wordOf (hi lo : Byte) : Addr := hi ++ lo

/-- Bits 15:8 of a 16-bit value. -/
def highByte (a : Addr) : Byte := a.extractLsb' 8 8

/-- Bits 7:0 of a 16-bit value. -/
def lowByte (a : Addr) : Byte := a.extractLsb' 0 8

/-- `OperandLength` of rule R92. -/
def operandLength : Mode → Nat
  | .implied => 0
  | .relative => 1
  | .absolute => 2
  | .absoluteX => 2
  | .absoluteY => 2
  | .indirect => 2
  | .immediate => 1
  | .indexedIndirect => 1
  | .indirectIndexed => 1
  | .zeroPage => 1
  | .zeroPageX => 1
  | .zeroPageY => 1

/-- Row 0x of the map of rule R93. -/
def opcodeRow0 : List (Mnemonic × Mode) :=
  [(.brk, .implied), (.ora, .indexedIndirect), (.stp, .implied), (.undocumented .slo, .indexedIndirect),
   (.nop, .zeroPage), (.ora, .zeroPage), (.asl, .zeroPage), (.undocumented .slo, .zeroPage),
   (.php, .implied), (.ora, .immediate), (.asl, .implied), (.undocumented .anc, .immediate),
   (.nop, .absolute), (.ora, .absolute), (.asl, .absolute), (.undocumented .slo, .absolute)]

/-- Row 1x of the map of rule R93. -/
def opcodeRow1 : List (Mnemonic × Mode) :=
  [(.bpl, .relative), (.ora, .indirectIndexed), (.stp, .implied), (.undocumented .slo, .indirectIndexed),
   (.nop, .zeroPageX), (.ora, .zeroPageX), (.asl, .zeroPageX), (.undocumented .slo, .zeroPageX),
   (.clc, .implied), (.ora, .absoluteY), (.nop, .implied), (.undocumented .slo, .absoluteY),
   (.nop, .absoluteX), (.ora, .absoluteX), (.asl, .absoluteX), (.undocumented .slo, .absoluteX)]

/-- Row 2x of the map of rule R93. -/
def opcodeRow2 : List (Mnemonic × Mode) :=
  [(.jsr, .absolute), (.and, .indexedIndirect), (.stp, .implied), (.undocumented .rla, .indexedIndirect),
   (.bit, .zeroPage), (.and, .zeroPage), (.rol, .zeroPage), (.undocumented .rla, .zeroPage),
   (.plp, .implied), (.and, .immediate), (.rol, .implied), (.undocumented .anc, .immediate),
   (.bit, .absolute), (.and, .absolute), (.rol, .absolute), (.undocumented .rla, .absolute)]

/-- Row 3x of the map of rule R93. -/
def opcodeRow3 : List (Mnemonic × Mode) :=
  [(.bmi, .relative), (.and, .indirectIndexed), (.stp, .implied), (.undocumented .rla, .indirectIndexed),
   (.nop, .zeroPageX), (.and, .zeroPageX), (.rol, .zeroPageX), (.undocumented .rla, .zeroPageX),
   (.sec, .implied), (.and, .absoluteY), (.nop, .implied), (.undocumented .rla, .absoluteY),
   (.nop, .absoluteX), (.and, .absoluteX), (.rol, .absoluteX), (.undocumented .rla, .absoluteX)]

/-- Row 4x of the map of rule R93. -/
def opcodeRow4 : List (Mnemonic × Mode) :=
  [(.rti, .implied), (.eor, .indexedIndirect), (.stp, .implied), (.undocumented .sre, .indexedIndirect),
   (.nop, .zeroPage), (.eor, .zeroPage), (.lsr, .zeroPage), (.undocumented .sre, .zeroPage),
   (.pha, .implied), (.eor, .immediate), (.lsr, .implied), (.undocumented .alr, .immediate),
   (.jmp, .absolute), (.eor, .absolute), (.lsr, .absolute), (.undocumented .sre, .absolute)]

/-- Row 5x of the map of rule R93. -/
def opcodeRow5 : List (Mnemonic × Mode) :=
  [(.bvc, .relative), (.eor, .indirectIndexed), (.stp, .implied), (.undocumented .sre, .indirectIndexed),
   (.nop, .zeroPageX), (.eor, .zeroPageX), (.lsr, .zeroPageX), (.undocumented .sre, .zeroPageX),
   (.cli, .implied), (.eor, .absoluteY), (.nop, .implied), (.undocumented .sre, .absoluteY),
   (.nop, .absoluteX), (.eor, .absoluteX), (.lsr, .absoluteX), (.undocumented .sre, .absoluteX)]

/-- Row 6x of the map of rule R93. -/
def opcodeRow6 : List (Mnemonic × Mode) :=
  [(.rts, .implied), (.adc, .indexedIndirect), (.stp, .implied), (.undocumented .rra, .indexedIndirect),
   (.nop, .zeroPage), (.adc, .zeroPage), (.ror, .zeroPage), (.undocumented .rra, .zeroPage),
   (.pla, .implied), (.adc, .immediate), (.ror, .implied), (.undocumented .arr, .immediate),
   (.jmp, .indirect), (.adc, .absolute), (.ror, .absolute), (.undocumented .rra, .absolute)]

/-- Row 7x of the map of rule R93. -/
def opcodeRow7 : List (Mnemonic × Mode) :=
  [(.bvs, .relative), (.adc, .indirectIndexed), (.stp, .implied), (.undocumented .rra, .indirectIndexed),
   (.nop, .zeroPageX), (.adc, .zeroPageX), (.ror, .zeroPageX), (.undocumented .rra, .zeroPageX),
   (.sei, .implied), (.adc, .absoluteY), (.nop, .implied), (.undocumented .rra, .absoluteY),
   (.nop, .absoluteX), (.adc, .absoluteX), (.ror, .absoluteX), (.undocumented .rra, .absoluteX)]

/-- Row 8x of the map of rule R93. -/
def opcodeRow8 : List (Mnemonic × Mode) :=
  [(.nop, .immediate), (.sta, .indexedIndirect), (.nop, .immediate), (.undocumented .sax, .indexedIndirect),
   (.sty, .zeroPage), (.sta, .zeroPage), (.stx, .zeroPage), (.undocumented .sax, .zeroPage),
   (.dey, .implied), (.nop, .immediate), (.txa, .implied), (.undocumented .xaa, .immediate),
   (.sty, .absolute), (.sta, .absolute), (.stx, .absolute), (.undocumented .sax, .absolute)]

/-- Row 9x of the map of rule R93. -/
def opcodeRow9 : List (Mnemonic × Mode) :=
  [(.bcc, .relative), (.sta, .indirectIndexed), (.stp, .implied), (.undocumented .ahx, .indirectIndexed),
   (.sty, .zeroPageX), (.sta, .zeroPageX), (.stx, .zeroPageY), (.undocumented .sax, .zeroPageY),
   (.tya, .implied), (.sta, .absoluteY), (.txs, .implied), (.undocumented .tas, .absoluteY),
   (.undocumented .shy, .absoluteX), (.sta, .absoluteX), (.undocumented .shx, .absoluteY), (.undocumented .ahx, .absoluteY)]

/-- Row Ax of the map of rule R93. -/
def opcodeRowA : List (Mnemonic × Mode) :=
  [(.ldy, .immediate), (.lda, .indexedIndirect), (.ldx, .immediate), (.undocumented .lax, .indexedIndirect),
   (.ldy, .zeroPage), (.lda, .zeroPage), (.ldx, .zeroPage), (.undocumented .lax, .zeroPage),
   (.tay, .implied), (.lda, .immediate), (.tax, .implied), (.undocumented .lax, .immediate),
   (.ldy, .absolute), (.lda, .absolute), (.ldx, .absolute), (.undocumented .lax, .absolute)]

/-- Row Bx of the map of rule R93. -/
def opcodeRowB : List (Mnemonic × Mode) :=
  [(.bcs, .relative), (.lda, .indirectIndexed), (.stp, .implied), (.undocumented .lax, .indirectIndexed),
   (.ldy, .zeroPageX), (.lda, .zeroPageX), (.ldx, .zeroPageY), (.undocumented .lax, .zeroPageY),
   (.clv, .implied), (.lda, .absoluteY), (.tsx, .implied), (.undocumented .las, .absoluteY),
   (.ldy, .absoluteX), (.lda, .absoluteX), (.ldx, .absoluteY), (.undocumented .lax, .absoluteY)]

/-- Row Cx of the map of rule R93. -/
def opcodeRowC : List (Mnemonic × Mode) :=
  [(.cpy, .immediate), (.cmp, .indexedIndirect), (.nop, .immediate), (.undocumented .dcp, .indexedIndirect),
   (.cpy, .zeroPage), (.cmp, .zeroPage), (.dec, .zeroPage), (.undocumented .dcp, .zeroPage),
   (.iny, .implied), (.cmp, .immediate), (.dex, .implied), (.undocumented .axs, .immediate),
   (.cpy, .absolute), (.cmp, .absolute), (.dec, .absolute), (.undocumented .dcp, .absolute)]

/-- Row Dx of the map of rule R93. -/
def opcodeRowD : List (Mnemonic × Mode) :=
  [(.bne, .relative), (.cmp, .indirectIndexed), (.stp, .implied), (.undocumented .dcp, .indirectIndexed),
   (.nop, .zeroPageX), (.cmp, .zeroPageX), (.dec, .zeroPageX), (.undocumented .dcp, .zeroPageX),
   (.cld, .implied), (.cmp, .absoluteY), (.nop, .implied), (.undocumented .dcp, .absoluteY),
   (.nop, .absoluteX), (.cmp, .absoluteX), (.dec, .absoluteX), (.undocumented .dcp, .absoluteX)]

/-- Row Ex of the map of rule R93. -/
def opcodeRowE : List (Mnemonic × Mode) :=
  [(.cpx, .immediate), (.sbc, .indexedIndirect), (.nop, .immediate), (.undocumented .isc, .indexedIndirect),
   (.cpx, .zeroPage), (.sbc, .zeroPage), (.inc, .zeroPage), (.undocumented .isc, .zeroPage),
   (.inx, .implied), (.sbc, .immediate), (.nop, .implied), (.sbc, .immediate),
   (.cpx, .absolute), (.sbc, .absolute), (.inc, .absolute), (.undocumented .isc, .absolute)]

/-- Row Fx of the map of rule R93. -/
def opcodeRowF : List (Mnemonic × Mode) :=
  [(.beq, .relative), (.sbc, .indirectIndexed), (.stp, .implied), (.undocumented .isc, .indirectIndexed),
   (.nop, .zeroPageX), (.sbc, .zeroPageX), (.inc, .zeroPageX), (.undocumented .isc, .zeroPageX),
   (.sed, .implied), (.sbc, .absoluteY), (.nop, .implied), (.undocumented .isc, .absoluteY),
   (.nop, .absoluteX), (.sbc, .absoluteX), (.inc, .absoluteX), (.undocumented .isc, .absoluteX)]

/-- The map of rule R93: the row is the high nibble of the opcode, the column its low nibble. -/
def opcodeMap : List (List (Mnemonic × Mode)) :=
  [opcodeRow0, opcodeRow1, opcodeRow2, opcodeRow3, opcodeRow4, opcodeRow5, opcodeRow6, opcodeRow7,
   opcodeRow8, opcodeRow9, opcodeRowA, opcodeRowB, opcodeRowC, opcodeRowD, opcodeRowE, opcodeRowF]

/-- The entry of the decode tables for an opcode byte (rules R91, R93). The map has 16 rows of 16 entries, so the default is
never reached (`opcodeMap_complete` in Laws/Decode.lean). -/
def decodeEntry (b0 : Byte) : Mnemonic × Mode :=
  (opcodeMap.getD (b0.toNat / 16) []).getD (b0.toNat % 16) (.stp, .implied)

/-- `DecodeMnemonic` of rule R91. -/
def decodeMnemonic (b0 : Byte) : Mnemonic := (decodeEntry b0).1

/-- `DecodeMode` of rule R91. -/
def decodeMode (b0 : Byte) : Mode := (decodeEntry b0).2

/-- The data operand a mode takes from the operand bytes (rules R90, R98 to R105); none for a mode that gives no data address. -/
def memOperand (md : Mode) (b1 b2 : Byte) : Option MemOperand :=
  match md with
  | .zeroPage => some (.zeroPage b1)
  | .zeroPageX => some (.zeroPageX b1)
  | .zeroPageY => some (.zeroPageY b1)
  | .absolute => some (.absolute (wordOf b1 b2))
  | .absoluteX => some (.absoluteX (wordOf b1 b2))
  | .absoluteY => some (.absoluteY (wordOf b1 b2))
  | .indexedIndirect => some (.indexedIndirect b1)
  | .indirectIndexed => some (.indirectIndexed b1)
  | .implied | .relative | .indirect | .immediate => none

/-- The operand of a reading instruction (rules R97 to R105). -/
def readOperand (md : Mode) (b1 b2 : Byte) : Option ReadOperand :=
  if md = .immediate then some (.immediate b1) else (memOperand md b1 b2).map .memory

/-- The operand of a shift or rotate (rule R175). -/
def shiftOperand (md : Mode) (b1 b2 : Byte) : Option ShiftOperand :=
  if md = .implied then some .accumulator else (memOperand md b1 b2).map .memory

/-- The operand of JMP (rules R101, R106). -/
def jumpOperand (md : Mode) (b1 b2 : Byte) : Option JumpOperand :=
  if md = .absolute then some (.absolute (wordOf b1 b2))
  else if md = .indirect then some (.indirect (wordOf b1 b2))
  else none

/-- The operand of a NOP encoding (rule R234). -/
def nopOperand (md : Mode) (b1 b2 : Byte) : Option NopOperand :=
  if md = .implied then some .implied
  else if md = .immediate then some (.immediate b1)
  else (memOperand md b1 b2).map .memory

/-- The instruction, where the table gives its mnemonic the one mode it has. -/
def whenMode (md want : Mode) (i : Instr) : Option Instr := if md = want then some i else none

/-- The instruction of a decode table entry and the instruction's bytes (rule R90). -/
def assemble (mn : Mnemonic) (md : Mode) (b0 b1 b2 : Byte) : Option Instr :=
  match mn with
  | .adc => (readOperand md b1 b2).map .adc
  | .sbc => (readOperand md b1 b2).map (.sbc b0)
  | .and => (readOperand md b1 b2).map .and
  | .ora => (readOperand md b1 b2).map .ora
  | .eor => (readOperand md b1 b2).map .eor
  | .asl => (shiftOperand md b1 b2).map .asl
  | .lsr => (shiftOperand md b1 b2).map .lsr
  | .rol => (shiftOperand md b1 b2).map .rol
  | .ror => (shiftOperand md b1 b2).map .ror
  | .cmp => (readOperand md b1 b2).map .cmp
  | .cpx => (readOperand md b1 b2).map .cpx
  | .cpy => (readOperand md b1 b2).map .cpy
  | .inc => (memOperand md b1 b2).map .inc
  | .dec => (memOperand md b1 b2).map .dec
  | .inx => whenMode md .implied .inx
  | .iny => whenMode md .implied .iny
  | .dex => whenMode md .implied .dex
  | .dey => whenMode md .implied .dey
  | .bcc => whenMode md .relative (.bcc b1)
  | .bcs => whenMode md .relative (.bcs b1)
  | .beq => whenMode md .relative (.beq b1)
  | .bmi => whenMode md .relative (.bmi b1)
  | .bne => whenMode md .relative (.bne b1)
  | .bpl => whenMode md .relative (.bpl b1)
  | .bvc => whenMode md .relative (.bvc b1)
  | .bvs => whenMode md .relative (.bvs b1)
  | .bit => (memOperand md b1 b2).map .bit
  | .jmp => (jumpOperand md b1 b2).map .jmp
  | .jsr => whenMode md .absolute (.jsr (wordOf b1 b2))
  | .rts => whenMode md .implied .rts
  | .brk => whenMode md .implied .brk
  | .rti => whenMode md .implied .rti
  | .pha => whenMode md .implied .pha
  | .php => whenMode md .implied .php
  | .pla => whenMode md .implied .pla
  | .plp => whenMode md .implied .plp
  | .tax => whenMode md .implied .tax
  | .tay => whenMode md .implied .tay
  | .txa => whenMode md .implied .txa
  | .tya => whenMode md .implied .tya
  | .txs => whenMode md .implied .txs
  | .tsx => whenMode md .implied .tsx
  | .sec => whenMode md .implied .sec
  | .clc => whenMode md .implied .clc
  | .sei => whenMode md .implied .sei
  | .cli => whenMode md .implied .cli
  | .sed => whenMode md .implied .sed
  | .cld => whenMode md .implied .cld
  | .clv => whenMode md .implied .clv
  | .nop => (nopOperand md b1 b2).map (.nop b0)
  | .stp => whenMode md .implied (.stp b0)
  | .lda => (readOperand md b1 b2).map .lda
  | .ldx => (readOperand md b1 b2).map .ldx
  | .ldy => (readOperand md b1 b2).map .ldy
  | .sta => (memOperand md b1 b2).map .sta
  | .stx => (memOperand md b1 b2).map .stx
  | .sty => (memOperand md b1 b2).map .sty
  | .undocumented .slo => (memOperand md b1 b2).map .slo
  | .undocumented .rla => (memOperand md b1 b2).map .rla
  | .undocumented .sre => (memOperand md b1 b2).map .sre
  | .undocumented .rra => (memOperand md b1 b2).map .rra
  | .undocumented .dcp => (memOperand md b1 b2).map .dcp
  | .undocumented .isc => (memOperand md b1 b2).map .isc
  | .undocumented .anc => whenMode md .immediate (.anc b0 b1)
  | .undocumented .alr => whenMode md .immediate (.alr b1)
  | .undocumented .arr => whenMode md .immediate (.arr b1)
  | .undocumented .xaa => whenMode md .immediate (.xaa b1)
  | .undocumented .lax => (readOperand md b1 b2).map .lax
  | .undocumented .sax => (memOperand md b1 b2).map .sax
  | .undocumented .ahx => (memOperand md b1 b2).map .ahx
  | .undocumented .tas => whenMode md .absoluteY (.tas (wordOf b1 b2))
  | .undocumented .shy => whenMode md .absoluteX (.shy (wordOf b1 b2))
  | .undocumented .shx => whenMode md .absoluteY (.shx (wordOf b1 b2))
  | .undocumented .las => whenMode md .absoluteY (.las (wordOf b1 b2))
  | .undocumented .axs => whenMode md .immediate (.axs b1)

/-- Why a list of bytes is no instruction. -/
inductive DecodeError where
  /-- There is no opcode byte (rule R142: the buffer is empty). -/
  | noOpcode
  /-- There are fewer operand bytes than the opcode's mode takes (rule R142: the buffer is too short). -/
  | truncated (opcode : Byte)
  /-- The decode tables give the mnemonic a mode it has no operand form for; no opcode does (`assembleOpcode_ok` in
  Laws/Decode.lean). -/
  | noForm (opcode : Byte)
  deriving DecidableEq, Repr

/-- `assemble`, a missing form rejected by name. -/
def assembleOpcode (b0 b1 b2 : Byte) : Except DecodeError Instr :=
  match assemble (decodeMnemonic b0) (decodeMode b0) b0 b1 b2 with
  | some i => .ok i
  | none => .error (.noForm b0)

/-- Decodes the first instruction of a list of bytes, and gives the bytes after it (rules R90, R133). Only the operand bytes the
mode takes are looked at. -/
def decode : List Byte → Except DecodeError (Instr × List Byte)
  | [] => .error .noOpcode
  | b0 :: rest =>
    match operandLength (decodeMode b0), rest with
    | 0, rest => (assembleOpcode b0 0 0).map (·, rest)
    | 1, b1 :: rest => (assembleOpcode b0 b1 0).map (·, rest)
    | 2, b1 :: b2 :: rest => (assembleOpcode b0 b1 b2).map (·, rest)
    | _, _ => .error (.truncated b0)

/-- The bytes of a table word: bit 0 of `w` is bit 0 of the first byte, and bits at or above `nbits` are 0 (the longest
instruction has three bytes, rule R90). -/
def tableBytes (nbits w : Nat) : List Byte :=
  let v := w % 2 ^ nbits
  [BitVec.ofNat 8 v, BitVec.ofNat 8 (v / 256), BitVec.ofNat 8 (v / 65536)]

/-- The instruction the decoder reads from an instruction word numbered as spec/opcode_table.json numbers it. -/
def decodeTableWord (nbits w : Nat) : Option Instr :=
  match decode (tableBytes nbits w) with
  | .ok (i, _) => some i
  | .error _ => none

/-- The opcode of each mnemonic in each of its modes, from the "Encoding" line of its rule. The four mnemonics with two opcodes
in one mode carry their opcode in the instruction and have no entry. -/
def encodings : Mnemonic → List (Mode × Byte)
  | .adc => [(.immediate, 0x69), (.zeroPage, 0x65), (.zeroPageX, 0x75), (.absolute, 0x6D), (.absoluteX, 0x7D),
      (.absoluteY, 0x79), (.indexedIndirect, 0x61), (.indirectIndexed, 0x71)]
  | .and => [(.immediate, 0x29), (.zeroPage, 0x25), (.zeroPageX, 0x35), (.absolute, 0x2D), (.absoluteX, 0x3D),
      (.absoluteY, 0x39), (.indexedIndirect, 0x21), (.indirectIndexed, 0x31)]
  | .ora => [(.immediate, 0x09), (.zeroPage, 0x05), (.zeroPageX, 0x15), (.absolute, 0x0D), (.absoluteX, 0x1D),
      (.absoluteY, 0x19), (.indexedIndirect, 0x01), (.indirectIndexed, 0x11)]
  | .eor => [(.immediate, 0x49), (.zeroPage, 0x45), (.zeroPageX, 0x55), (.absolute, 0x4D), (.absoluteX, 0x5D),
      (.absoluteY, 0x59), (.indexedIndirect, 0x41), (.indirectIndexed, 0x51)]
  | .asl => [(.implied, 0x0A), (.zeroPage, 0x06), (.zeroPageX, 0x16), (.absolute, 0x0E), (.absoluteX, 0x1E)]
  | .lsr => [(.implied, 0x4A), (.zeroPage, 0x46), (.zeroPageX, 0x56), (.absolute, 0x4E), (.absoluteX, 0x5E)]
  | .rol => [(.implied, 0x2A), (.zeroPage, 0x26), (.zeroPageX, 0x36), (.absolute, 0x2E), (.absoluteX, 0x3E)]
  | .ror => [(.implied, 0x6A), (.zeroPage, 0x66), (.zeroPageX, 0x76), (.absolute, 0x6E), (.absoluteX, 0x7E)]
  | .cmp => [(.immediate, 0xC9), (.zeroPage, 0xC5), (.zeroPageX, 0xD5), (.absolute, 0xCD), (.absoluteX, 0xDD),
      (.absoluteY, 0xD9), (.indexedIndirect, 0xC1), (.indirectIndexed, 0xD1)]
  | .cpx => [(.immediate, 0xE0), (.zeroPage, 0xE4), (.absolute, 0xEC)]
  | .cpy => [(.immediate, 0xC0), (.zeroPage, 0xC4), (.absolute, 0xCC)]
  | .inc => [(.zeroPage, 0xE6), (.zeroPageX, 0xF6), (.absolute, 0xEE), (.absoluteX, 0xFE)]
  | .dec => [(.zeroPage, 0xC6), (.zeroPageX, 0xD6), (.absolute, 0xCE), (.absoluteX, 0xDE)]
  | .inx => [(.implied, 0xE8)]
  | .iny => [(.implied, 0xC8)]
  | .dex => [(.implied, 0xCA)]
  | .dey => [(.implied, 0x88)]
  | .bcc => [(.relative, 0x90)]
  | .bcs => [(.relative, 0xB0)]
  | .beq => [(.relative, 0xF0)]
  | .bmi => [(.relative, 0x30)]
  | .bne => [(.relative, 0xD0)]
  | .bpl => [(.relative, 0x10)]
  | .bvc => [(.relative, 0x50)]
  | .bvs => [(.relative, 0x70)]
  | .bit => [(.zeroPage, 0x24), (.absolute, 0x2C)]
  | .jmp => [(.absolute, 0x4C), (.indirect, 0x6C)]
  | .jsr => [(.absolute, 0x20)]
  | .rts => [(.implied, 0x60)]
  | .brk => [(.implied, 0x00)]
  | .rti => [(.implied, 0x40)]
  | .pha => [(.implied, 0x48)]
  | .php => [(.implied, 0x08)]
  | .pla => [(.implied, 0x68)]
  | .plp => [(.implied, 0x28)]
  | .tax => [(.implied, 0xAA)]
  | .tay => [(.implied, 0xA8)]
  | .txa => [(.implied, 0x8A)]
  | .tya => [(.implied, 0x98)]
  | .txs => [(.implied, 0x9A)]
  | .tsx => [(.implied, 0xBA)]
  | .sec => [(.implied, 0x38)]
  | .clc => [(.implied, 0x18)]
  | .sei => [(.implied, 0x78)]
  | .cli => [(.implied, 0x58)]
  | .sed => [(.implied, 0xF8)]
  | .cld => [(.implied, 0xD8)]
  | .clv => [(.implied, 0xB8)]
  | .lda => [(.immediate, 0xA9), (.zeroPage, 0xA5), (.zeroPageX, 0xB5), (.absolute, 0xAD), (.absoluteX, 0xBD),
      (.absoluteY, 0xB9), (.indexedIndirect, 0xA1), (.indirectIndexed, 0xB1)]
  | .ldx => [(.immediate, 0xA2), (.zeroPage, 0xA6), (.zeroPageY, 0xB6), (.absolute, 0xAE), (.absoluteY, 0xBE)]
  | .ldy => [(.immediate, 0xA0), (.zeroPage, 0xA4), (.zeroPageX, 0xB4), (.absolute, 0xAC), (.absoluteX, 0xBC)]
  | .sta => [(.zeroPage, 0x85), (.zeroPageX, 0x95), (.absolute, 0x8D), (.absoluteX, 0x9D), (.absoluteY, 0x99),
      (.indexedIndirect, 0x81), (.indirectIndexed, 0x91)]
  | .stx => [(.zeroPage, 0x86), (.zeroPageY, 0x96), (.absolute, 0x8E)]
  | .sty => [(.zeroPage, 0x84), (.zeroPageX, 0x94), (.absolute, 0x8C)]
  | .undocumented .slo => [(.zeroPage, 0x07), (.zeroPageX, 0x17), (.absolute, 0x0F), (.absoluteX, 0x1F),
      (.absoluteY, 0x1B), (.indexedIndirect, 0x03), (.indirectIndexed, 0x13)]
  | .undocumented .rla => [(.zeroPage, 0x27), (.zeroPageX, 0x37), (.absolute, 0x2F), (.absoluteX, 0x3F),
      (.absoluteY, 0x3B), (.indexedIndirect, 0x23), (.indirectIndexed, 0x33)]
  | .undocumented .sre => [(.zeroPage, 0x47), (.zeroPageX, 0x57), (.absolute, 0x4F), (.absoluteX, 0x5F),
      (.absoluteY, 0x5B), (.indexedIndirect, 0x43), (.indirectIndexed, 0x53)]
  | .undocumented .rra => [(.zeroPage, 0x67), (.zeroPageX, 0x77), (.absolute, 0x6F), (.absoluteX, 0x7F),
      (.absoluteY, 0x7B), (.indexedIndirect, 0x63), (.indirectIndexed, 0x73)]
  | .undocumented .dcp => [(.zeroPage, 0xC7), (.zeroPageX, 0xD7), (.absolute, 0xCF), (.absoluteX, 0xDF),
      (.absoluteY, 0xDB), (.indexedIndirect, 0xC3), (.indirectIndexed, 0xD3)]
  | .undocumented .isc => [(.zeroPage, 0xE7), (.zeroPageX, 0xF7), (.absolute, 0xEF), (.absoluteX, 0xFF),
      (.absoluteY, 0xFB), (.indexedIndirect, 0xE3), (.indirectIndexed, 0xF3)]
  | .undocumented .alr => [(.immediate, 0x4B)]
  | .undocumented .arr => [(.immediate, 0x6B)]
  | .undocumented .xaa => [(.immediate, 0x8B)]
  | .undocumented .lax => [(.zeroPage, 0xA7), (.zeroPageY, 0xB7), (.absolute, 0xAF), (.absoluteY, 0xBF),
      (.indexedIndirect, 0xA3), (.indirectIndexed, 0xB3), (.immediate, 0xAB)]
  | .undocumented .sax => [(.zeroPage, 0x87), (.zeroPageY, 0x97), (.absolute, 0x8F), (.indexedIndirect, 0x83)]
  | .undocumented .ahx => [(.absoluteY, 0x9F), (.indirectIndexed, 0x93)]
  | .undocumented .tas => [(.absoluteY, 0x9B)]
  | .undocumented .shy => [(.absoluteX, 0x9C)]
  | .undocumented .shx => [(.absoluteY, 0x9E)]
  | .undocumented .las => [(.absoluteY, 0xBB)]
  | .undocumented .axs => [(.immediate, 0xCB)]
  | .sbc | .nop | .stp | .undocumented .anc => []

/-- The opcode byte of an instruction (rule R90). -/
def Instr.opcode : Instr → Option Byte
  | .sbc op _ | .nop op _ | .stp op | .anc op _ => some op
  | i => (encodings i.mnemonic).lookup i.mode

/-- The operand bytes of a data operand, a two-byte one high byte first (rule R90). -/
def MemOperand.bytes : MemOperand → List Byte
  | .zeroPage b1 | .zeroPageX b1 | .zeroPageY b1 | .indexedIndirect b1 | .indirectIndexed b1 => [b1]
  | .absolute a | .absoluteX a | .absoluteY a => [highByte a, lowByte a]

@[inherit_doc MemOperand.bytes]
def ReadOperand.bytes : ReadOperand → List Byte
  | .immediate b1 => [b1]
  | .memory m => m.bytes

@[inherit_doc MemOperand.bytes]
def ShiftOperand.bytes : ShiftOperand → List Byte
  | .accumulator => []
  | .memory m => m.bytes

@[inherit_doc MemOperand.bytes]
def JumpOperand.bytes : JumpOperand → List Byte
  | .absolute a | .indirect a => [highByte a, lowByte a]

@[inherit_doc MemOperand.bytes]
def NopOperand.bytes : NopOperand → List Byte
  | .implied => []
  | .immediate b1 => [b1]
  | .memory m => m.bytes

/-- The operand bytes of an instruction (rule R90). -/
def Instr.operandBytes : Instr → List Byte
  | .adc o | .sbc _ o | .and o | .ora o | .eor o | .cmp o | .cpx o | .cpy o | .lda o | .ldx o | .ldy o | .lax o => o.bytes
  | .asl o | .lsr o | .rol o | .ror o => o.bytes
  | .inc m | .dec m | .bit m | .sta m | .stx m | .sty m | .slo m | .rla m | .sre m | .rra m | .dcp m | .isc m | .sax m
  | .ahx m => m.bytes
  | .jmp o => o.bytes
  | .nop _ o => o.bytes
  | .bcc b1 | .bcs b1 | .beq b1 | .bmi b1 | .bne b1 | .bpl b1 | .bvc b1 | .bvs b1 => [b1]
  | .anc _ b1 | .alr b1 | .arr b1 | .xaa b1 | .axs b1 => [b1]
  | .jsr a | .tas a | .shy a | .shx a | .las a => [highByte a, lowByte a]
  | .inx | .iny | .dex | .dey | .rts | .brk | .rti | .pha | .php | .pla | .plp | .tax | .tay | .txa | .tya | .txs | .tsx
  | .sec | .clc | .sei | .cli | .sed | .cld | .clv | .stp _ => []

/-- The bytes of a well-formed instruction; none for a form no rule's "Encoding" line lists. -/
def encode (i : Instr) : Option (List Byte) :=
  if i.wellFormed then i.opcode.map (· :: i.operandBytes) else none

end Sys2Proof
end

