-- ==== Sys2Proof/Machine/State.lean ====
section
/-! DEFINITION. The state of the machine: everything rule R30 gives the core and the memory of rule R61, as plain data; the
reasons a step can stop; and the state at construction (rules R51, R300). -/

namespace Sys2Proof.Machine

/-- The bits of the status register P, by the spec's names (rule R36). -/
inductive Flag where
  | c | z | i | d | b | u | v | n
  deriving DecidableEq, Repr

/-- The run state (rule R47). -/
inductive RunState where
  | running | halted | faulted
  deriving DecidableEq, Repr

/-- What the unimplemented-mnemonic fault records (rule R48): the offending mnemonic and the address its opcode was fetched
from. -/
structure FaultRecord where
  mnemonic : Undocumented
  addr : Addr
  deriving DecidableEq, Repr

/-- The physical store of rule R61, as (cell, byte) pairs. A cell is named by the lowest logical address of its mirror group
(assumption 2); a cell that is not listed holds `Config.emptyByte` (rule R300). -/
abbrev Memory := List Host.Cell

/-- The state of the core and its memory (rules R30, R61). -/
structure State where
  /-- The accumulator (rule R31). -/
  a : Byte
  /-- The index register X (rule R32). -/
  x : Byte
  /-- The index register Y (rule R33). -/
  y : Byte
  /-- The stack pointer, an index into the stack page (rule R35). -/
  sp : Byte
  /-- The status register, read and written as a whole byte by PHP, PLP, BRK and RTI (rule R36). -/
  p : Byte
  /-- The program counter (rule R34). -/
  pc : Addr
  /-- The run state (rule R47). -/
  runState : RunState
  /-- The fault record, empty unless the run state is Faulted (rule R48). -/
  faultRecord : Option FaultRecord
  /-- The physical store behind the address space (rule R61). -/
  mem : Memory
  deriving DecidableEq, Repr

/-- Why there is no next state. No instruction ends in one: both say that the run has already ended (rules R140, R146). -/
inductive Fault where
  /-- Raised by `step` and `stepBuffer` when the run state is Halted: rule R140 leaves such a state no enabled step.
  Safe: the spec's step there has no effect, and no claim about a next state can be made. -/
  | halted
  /-- Raised by `step` and `stepBuffer` when the run state is Faulted, for the same rule. Safe, for the same reason. -/
  | faulted
  deriving DecidableEq, Repr

/-- What the model gives no meaning to. -/
inductive Refusal where
  /-- An instruction without a meaning. No arm of `exec` raises it: every instruction has its meaning. Safe. -/
  | notModelled (mnemonic : String)
  /-- Raised by a buffer-mode step whose buffer is empty or shorter than its instruction, which rule R142 has a model refuse.
  A memory-mode step never raises it. Safe. -/
  | undecoded (e : DecodeError)
  /-- Raised by the program load for a sequence of more than 65536 bytes, to which rule R301 gives no meaning. Safe. -/
  | programTooLong
  deriving DecidableEq, Repr

/-- The result of a step or of an entry point. -/
abbrev Result := Host.Outcome State Fault Refusal

/-- The state at construction (rules R51, R300): every register zero, Running, no fault recorded, every cell 0x00. -/
def State.reset : State where
  a := 0x00
  x := 0x00
  y := 0x00
  sp := 0x00
  p := 0x00
  pc := 0x0000
  runState := .running
  faultRecord := none
  mem := []

end Sys2Proof.Machine
end

