-- ==== Sys2Proof/Machine/Flags.lean ====
section
/-! DEFINITION. The status register P: its bits, and every flag computation the spec gives (rules R36 to R44, R160 to R162,
R176 to R179, R182, R205). Arithmetic is exact on numbers and narrowed at the end (rule R163). -/

namespace Sys2Proof.Machine

/-- The place of a flag in P (rule R36). -/
def Flag.index : Flag → Nat
  | .c => 0
  | .z => 1
  | .i => 2
  | .d => 3
  | .b => 4
  | .u => 5
  | .v => 6
  | .n => 7

/-- The byte with only the flag's bit set. -/
def Flag.mask (f : Flag) : Byte := 1#8 <<< f.index

/-- A flag's bit of a status byte (rule R36). -/
def flagOf (p : Byte) (f : Flag) : Bool := p.getLsbD f.index

/-- A status byte with one flag written and the seven others kept (rule R36). -/
def withFlag (p : Byte) (f : Flag) (v : Bool) : Byte := if v then p ||| f.mask else p &&& ~~~f.mask

/-- A flag of the state. -/
def State.flag (s : State) (f : Flag) : Bool := flagOf s.p f

/-- Writes one flag and keeps the others. -/
def State.setFlag (s : State) (f : Flag) (v : Bool) : State := { s with p := withFlag s.p f v }

/-- Writes all eight bits of P (rule R36). -/
def State.setP (s : State) (v : Byte) : State := { s with p := v }

/-- `SetZN` of rule R41: Z from `v = 0`, N from bit 7 of `v`, and nothing else. -/
def State.setZN (s : State) (v : Byte) : State := (s.setFlag .z (v == 0)).setFlag .n (v.getLsbD 7)

/-- `Compare` of rule R182: C, Z and N from the unreduced difference of two unsigned bytes. -/
def State.compare (s : State) (l r : Byte) : State :=
  ((s.setFlag .c (decide (r.toNat < l.toNat))).setFlag .n (decide (l.toNat < r.toNat))).setFlag .z (l == r)

/-- The flags of BIT (rule R205): Z from the masked operand, V and N from bits 6 and 7 of the operand itself. -/
def State.testBits (s : State) (m : Byte) : State :=
  ((s.setFlag .z ((s.a &&& m) == 0)).setFlag .v (m.getLsbD 6)).setFlag .n (m.getLsbD 7)

/-- `bcd2bin` of rule R160, at most 165. -/
def bcd2bin (v : Byte) : Nat := (v.toNat / 16) * 10 + v.toNat % 16

/-- `bin2bcd` of rule R160. -/
def bin2bcd (r : Byte) : Byte := BitVec.ofNat 8 ((r.toNat / 10) * 16 + r.toNat % 10)

/-- The addend ADC and SBC take from a byte: in decimal mode its packed-BCD value, else the byte (rules R161, R162). -/
def State.addend (s : State) (v : Byte) : Byte := if s.flag .d then BitVec.ofNat 8 (bcd2bin v) else v

/-- The 9-bit sum `s` of rules R161 and R162. -/
def sum9 (x y : Byte) (c : Bool) : Nat := x.toNat + y.toNat + c.toNat

/-- The sum reduced to a byte, `r` of rules R161 and R162. -/
def sumByte (x y : Byte) (c : Bool) : Byte := BitVec.ofNat 8 (sum9 x y c)

/-- The carry of rules R161 and R162: bit 8 of the 9-bit sum. -/
def sumCarry (x y : Byte) (c : Bool) : Bool := decide (256 ≤ sum9 x y c)

/-- The overflow of rules R161 and R162: both addends differ from the result in bit 7. -/
def sumOverflow (x y : Byte) (c : Bool) : Bool :=
  ((x ^^^ sumByte x y c) &&& (y ^^^ sumByte x y c) &&& 0x80) != 0

/-- ASL's result (rule R176). -/
def shiftLeft (v : Byte) : Byte := v <<< 1

/-- LSR's result (rule R177). -/
def shiftRight (v : Byte) : Byte := v >>> 1

/-- ROL's result: the previous carry enters bit 0 (rule R178). -/
def rotateLeft (v : Byte) (c : Bool) : Byte := (v <<< 1) ||| (if c then 0x01 else 0x00)

/-- ROR's result: the previous carry enters bit 7 (rule R179). -/
def rotateRight (v : Byte) (c : Bool) : Byte := (v >>> 1) ||| (if c then 0x80 else 0x00)

end Sys2Proof.Machine
end

