-- ==== Sys2Proof/Machine/Ops.lean ====
section
/-! DEFINITION. The named operations over memory, registers and the stack, the advance of the program counter, the
unimplemented-mnemonic fault, and trap entry and return. Every instruction meaning is built from these. -/

namespace Sys2Proof.Machine

/-! ### Memory -/

/-- `cell(addr)` of rule R61: the cell of a logical address, named by the lowest address of its mirror group. -/
def cellOf (a : Addr) : Nat :=
  if a.toNat < Config.ramEnd then a.toNat % Config.ramSize
  else if a.toNat < Config.ppuEnd then Config.ramEnd + a.toNat % Config.ppuSize
  else a.toNat

/-- Whether a number names a cell of the store of rule R61. -/
def isCell (k : Nat) : Bool :=
  decide (k < Config.ramSize) ||
    (decide (Config.ramEnd ≤ k) && decide (k < Config.ramEnd + Config.ppuSize)) ||
    (decide (Config.ppuEnd ≤ k) && decide (k < Config.addressSpace))

/-- The canonical form of a memory: cells strictly rising, each a cell of the store, none holding what an unlisted cell holds. -/
abbrev Memory.wf (m : Memory) : Prop :=
  m.Pairwise (fun c d => c.1 < d.1) ∧ ∀ c ∈ m, isCell c.1 = true ∧ c.2 ≠ Config.emptyByte

/-- The byte a cell holds. -/
def Memory.read (m : Memory) (k : Nat) : Byte :=
  match m with
  | [] => Config.emptyByte
  | (k', v) :: rest => if k = k' then v else Memory.read rest k

/-- The memory with one cell written, in canonical form. -/
def Memory.write (m : Memory) (k : Nat) (v : Byte) : Memory :=
  match m with
  | [] => if v = Config.emptyByte then [] else [(k, v)]
  | (k', v') :: rest =>
    if k < k' then if v = Config.emptyByte then (k', v') :: rest else (k, v) :: (k', v') :: rest
    else if k = k' then if v = Config.emptyByte then rest else (k, v) :: rest
    else (k', v') :: Memory.write rest k v

/-- `MemRead(a, 1)` of rule R63. -/
def State.memRead (s : State) (a : Addr) : Byte := s.mem.read (cellOf a)

/-- `MemWrite(a, 1, v)` of rule R63. -/
def State.memWrite (s : State) (a : Addr) (v : Byte) : State := { s with mem := s.mem.write (cellOf a) v }

/-! ### Registers -/

/-- `WriteA(v)` of rule R40, the only way A is written: it also recomputes Z and N. -/
def State.writeA (s : State) (v : Byte) : State := { s with a := v }.setZN v

/-- Writes X (rule R32). -/
def State.setX (s : State) (v : Byte) : State := { s with x := v }

/-- Writes Y (rule R33). -/
def State.setY (s : State) (v : Byte) : State := { s with y := v }

/-- Writes SP (rule R35). -/
def State.setSP (s : State) (v : Byte) : State := { s with sp := v }

/-- Writes PC with an address the instruction gives (rule R137). -/
def State.setPC (s : State) (target : Addr) : State := { s with pc := target }

/-- The default advance of rule R137: past the opcode byte and the mode's operand bytes. -/
def State.advance (s : State) (md : Mode) : State := s.setPC (s.pc + 1 + BitVec.ofNat 16 (operandLength md))

/-- Writes the run state (rule R47). -/
def State.setRunState (s : State) (r : RunState) : State := { s with runState := r }

/-! ### The stack -/

/-- The address of the stack cell a stack pointer designates (rule R35). -/
def stackAddr (sp : Byte) : Addr := Config.stackPage + sp.setWidth 16

/-- `Push(v)` of rule R45. -/
def State.push (s : State) (v : Byte) : State := (s.memWrite (stackAddr s.sp) v).setSP (s.sp - 1)

/-- What `Pull()` of rule R46 returns: the byte at the incremented stack pointer. -/
def State.pulled (s : State) : Byte := s.memRead (stackAddr (s.sp + 1))

/-- What `Pull()` of rule R46 does to the state. -/
def State.pull (s : State) : State := s.setSP (s.sp + 1)

/-- A 16-bit value pushed high byte first (rule R65 (b)). -/
def State.pushWord (s : State) (v : Addr) : State := (s.push (highByte v)).push (lowByte v)

/-- A 16-bit value pulled low byte first (rule R65 (b)). -/
def State.pulledWord (s : State) : Addr := wordOf s.pull.pulled s.pulled

/-- A 16-bit value held in memory, low byte at the first address (rule R65 (a)). -/
def State.readWord (s : State) (lo hi : Addr) : Addr := wordOf (s.memRead hi) (s.memRead lo)

/-! ### Exceptions -/

/-- The unimplemented-mnemonic fault (rule R276): the run state and the fault record, and nothing else; PC stays. -/
def State.raiseUnimplemented (s : State) (mn : Undocumented) : State :=
  { s with runState := .faulted, faultRecord := some ⟨mn, s.pc⟩ }

/-- Trap entry, which is BRK (rules R211, R279): B is set, pc0 + 2 and P are pushed, and execution continues where the vector at
0xFFFE/0xFFFF, read after the pushes, points. -/
def State.enterTrap (s : State) : State :=
  let broken := s.setFlag .b true
  let saved := (broken.pushWord (s.pc + 2)).push broken.p
  saved.setPC (saved.readWord Config.vectorLow Config.vectorHigh)

/-- Trap return, which is RTI (rules R212, R280): all of P is pulled, then PC, and nothing is added. -/
def State.returnFromTrap (s : State) : State :=
  let restored := s.pull.setP s.pulled
  restored.pull.pull.setPC restored.pulledWord

end Sys2Proof.Machine
end

