-- ==== Sys2Proof/Machine/Operands.lean ====
section
/-! DEFINITION. The addressing resolver (rules R96 to R107) and the operand load (rule R135). An operand is resolved against
the state at the start of the step (rule R139). -/

namespace Sys2Proof.Machine

/-- A byte as an address in the zero page, `zext_16` of rule R8. -/
def zeroPageAddr (b : Byte) : Addr := b.setWidth 16

/-- `ea` for a data operand (rules R98 to R105). -/
def State.effectiveAddress (s : State) : MemOperand → Addr
  | .zeroPage b1 => zeroPageAddr b1
  | .zeroPageX b1 => zeroPageAddr (b1 + s.x)
  | .zeroPageY b1 => zeroPageAddr (b1 + s.y)
  | .absolute a => a
  | .absoluteX a => a + s.x.setWidth 16
  | .absoluteY a => a + s.y.setWidth 16
  | .indexedIndirect b1 => s.readWord (zeroPageAddr (b1 + s.x)) (zeroPageAddr (b1 + s.x + 1))
  | .indirectIndexed b1 => s.readWord (zeroPageAddr b1) (zeroPageAddr (b1 + 1)) + s.y.setWidth 16

/-- `M` for a data operand in memory (rule R135). -/
def State.loadMem (s : State) (m : MemOperand) : Byte := s.memRead (s.effectiveAddress m)

/-- `M` for an operand that is read: the literal (rule R97) or the byte at `ea` (rule R135). -/
def State.load (s : State) : ReadOperand → Byte
  | .immediate b1 => b1
  | .memory m => s.loadMem m

/-- JMP's `ea` (rules R101, R106); the pointer's second byte is at pointer + 1, with no page-wrap defect. -/
def State.jumpTarget (s : State) : JumpOperand → Addr
  | .absolute a => a
  | .indirect ptr => s.readWord ptr (ptr + 1)

/-- `signed8` of rule R8 as the 16-bit two's-complement offset `sext_16`. -/
def branchOffset (b1 : Byte) : Addr := b1.signExtend 16

/-- The net target of a taken branch (rule R196). -/
def State.branchTarget (s : State) (b1 : Byte) : Addr := s.pc + 2 + branchOffset b1

/-- What the resolver returns (rule R96): an effective address, an inline literal, or the "no address" sentinel. -/
inductive Resolved where
  | address (ea : Addr)
  | literal (lit : Byte)
  | none
  deriving DecidableEq, Repr

@[inherit_doc State.load]
def State.resolveRead (s : State) : ReadOperand → Resolved
  | .immediate b1 => .literal b1
  | .memory m => .address (s.effectiveAddress m)

/-- The whole resolver (rules R96, R134), whether or not the instruction uses what it gives: a branch's value is the intermediate
pc0 + offset of rule R107, which its meaning does not use (rule R196). -/
def State.resolve (s : State) (i : Instr) : Resolved :=
  match i with
  | .adc o | .sbc _ o | .and o | .ora o | .eor o | .cmp o | .cpx o | .cpy o | .lda o | .ldx o | .ldy o | .lax o =>
    s.resolveRead o
  | .asl o | .lsr o | .rol o | .ror o =>
    match o with
    | .accumulator => .none
    | .memory m => .address (s.effectiveAddress m)
  | .inc m | .dec m | .bit m | .sta m | .stx m | .sty m | .slo m | .rla m | .sre m | .rra m | .dcp m | .isc m | .sax m
  | .ahx m => .address (s.effectiveAddress m)
  | .jmp o => .address (s.jumpTarget o)
  | .nop _ o =>
    match o with
    | .implied => .none
    | .immediate b1 => .literal b1
    | .memory m => .address (s.effectiveAddress m)
  | .bcc b1 | .bcs b1 | .beq b1 | .bmi b1 | .bne b1 | .bpl b1 | .bvc b1 | .bvs b1 => .address (s.pc + branchOffset b1)
  | .anc _ b1 | .alr b1 | .arr b1 | .xaa b1 | .axs b1 => .literal b1
  | .jsr a => .address a
  | .shy a => .address (s.effectiveAddress (.absoluteX a))
  | .tas a | .shx a | .las a => .address (s.effectiveAddress (.absoluteY a))
  | .inx | .iny | .dex | .dey | .rts | .brk | .rti | .pha | .php | .pla | .plp | .tax | .tay | .txa | .tya | .txs | .tsx
  | .sec | .clc | .sei | .cli | .sed | .cld | .clv | .stp _ => .none

/-- `M` of rule R135: the literal, the byte at the address, or no value. The load changes nothing (rule R64), so a meaning that
does not use `M` omits it (assumption 6). -/
def State.operandValue (s : State) (i : Instr) : Option Byte :=
  match s.resolve i with
  | .address ea => some (s.memRead ea)
  | .literal lit => some lit
  | .none => Option.none

end Sys2Proof.Machine
end

