-- ==== Sys2Proof/Machine/Arith.lean ====
section
/-! DEFINITION. ADC and SBC (41_arith.md). -/

namespace Sys2Proof.Machine

/-- The common tail of ADC and SBC (rules R161, R162): C and V from the sum of the two addends and the carry, then the sum byte
into A, converted back to packed BCD in decimal mode. -/
def State.addIntoA (s : State) (x y : Byte) : State :=
  let c := s.flag .c
  let r := sumByte x y c
  ((s.setFlag .c (sumCarry x y c)).setFlag .v (sumOverflow x y c)).writeA (if s.flag .d then bin2bcd r else r)

/-- ADC (rule R161). -/
def execAdc (o : ReadOperand) (s : State) : Result :=
  .next ((s.addIntoA (s.addend s.a) (s.addend (s.load o))).advance o.mode)

/-- SBC (rule R162): ADC of the ones' complement of the (decimal-interpreted) operand. -/
def execSbc (o : ReadOperand) (s : State) : Result :=
  .next ((s.addIntoA (s.addend s.a) (~~~ s.addend (s.load o))).advance o.mode)

end Sys2Proof.Machine
end

