-- ==== Sys2Proof/Machine/Branch.lean ====
section
/-! DEFINITION. The conditional branches and BIT (46_branch_bit.md). -/

namespace Sys2Proof.Machine

/-- The net branch rule R196: to the target when the condition holds, else the default advance. -/
def State.branchIf (s : State) (cond : Bool) (b1 : Byte) : State :=
  if cond then s.setPC (s.branchTarget b1) else s.advance .relative

/-- BCC (rule R197): taken on carry clear. -/
def execBcc (b1 : Byte) (s : State) : Result := .next (s.branchIf (!s.flag .c) b1)

/-- BCS (rule R198): taken on carry set. -/
def execBcs (b1 : Byte) (s : State) : Result := .next (s.branchIf (s.flag .c) b1)

/-- BEQ (rule R199): taken on zero set. -/
def execBeq (b1 : Byte) (s : State) : Result := .next (s.branchIf (s.flag .z) b1)

/-- BMI (rule R200): taken on negative set. -/
def execBmi (b1 : Byte) (s : State) : Result := .next (s.branchIf (s.flag .n) b1)

/-- BNE (rule R201): taken on zero clear. -/
def execBne (b1 : Byte) (s : State) : Result := .next (s.branchIf (!s.flag .z) b1)

/-- BPL (rule R202): taken on negative clear. -/
def execBpl (b1 : Byte) (s : State) : Result := .next (s.branchIf (!s.flag .n) b1)

/-- BVC (rule R203): taken on overflow clear. -/
def execBvc (b1 : Byte) (s : State) : Result := .next (s.branchIf (!s.flag .v) b1)

/-- BVS (rule R204): taken on overflow set. -/
def execBvs (b1 : Byte) (s : State) : Result := .next (s.branchIf (s.flag .v) b1)

/-- BIT (rule R205). -/
def execBit (m : MemOperand) (s : State) : Result := .next ((s.testBits (s.loadMem m)).advance m.mode)

end Sys2Proof.Machine
end

