-- ==== Sys2Proof/Machine/Compare.lean ====
section
/-! DEFINITION. CMP, CPX and CPY (44_compare.md). -/

namespace Sys2Proof.Machine

/-- CMP (rule R183). -/
def execCmp (o : ReadOperand) (s : State) : Result := .next ((s.compare s.a (s.load o)).advance o.mode)

/-- CPX (rule R184): A is compared with X; the operand gives only the length. -/
def execCpx (o : ReadOperand) (s : State) : Result := .next ((s.compare s.a s.x).advance o.mode)

/-- CPY (rule R185): A is compared with Y; the operand gives only the length. -/
def execCpy (o : ReadOperand) (s : State) : Result := .next ((s.compare s.a s.y).advance o.mode)

end Sys2Proof.Machine
end

