-- ==== Sys2Proof/Machine/IncDec.lean ====
section
/-! DEFINITION. INC, DEC, INX, INY, DEX and DEY (45_incdec.md). -/

namespace Sys2Proof.Machine

/-- INC (rule R188). -/
def execInc (m : MemOperand) (s : State) : Result :=
  let r := s.loadMem m + 1
  .next (((s.memWrite (s.effectiveAddress m) r).setZN r).advance m.mode)

/-- DEC (rule R189). -/
def execDec (m : MemOperand) (s : State) : Result :=
  let r := s.loadMem m - 1
  .next (((s.memWrite (s.effectiveAddress m) r).setZN r).advance m.mode)

/-- INX (rule R190). -/
def execInx (s : State) : Result := .next (((s.setX (s.x + 1)).setZN (s.x + 1)).advance .implied)

/-- INY (rule R191). -/
def execIny (s : State) : Result := .next (((s.setY (s.y + 1)).setZN (s.y + 1)).advance .implied)

/-- DEX (rule R192). -/
def execDex (s : State) : Result := .next (((s.setX (s.x - 1)).setZN (s.x - 1)).advance .implied)

/-- DEY (rule R193). -/
def execDey (s : State) : Result := .next (((s.setY (s.y - 1)).setZN (s.y - 1)).advance .implied)

end Sys2Proof.Machine
end

