-- ==== Sys2Proof/Machine/Jump.lean ====
section
/-! DEFINITION. JMP, JSR, RTS, BRK and RTI (47_jump.md). Each sets PC itself. -/

namespace Sys2Proof.Machine

/-- JMP (rule R208). -/
def execJmp (o : JumpOperand) (s : State) : Result := .next (s.setPC (s.jumpTarget o))

/-- JSR (rule R209): the address of its own last byte is pushed. -/
def execJsr (addr : Addr) (s : State) : Result := .next ((s.pushWord (s.pc + 2)).setPC addr)

/-- RTS (rule R210): the net PC is the pulled value plus 1. -/
def execRts (s : State) : Result := .next (s.pull.pull.setPC (s.pulledWord + 1))

/-- BRK (rules R211, R279). -/
def execBrk (s : State) : Result := .next s.enterTrap

/-- RTI (rules R212, R280). -/
def execRti (s : State) : Result := .next s.returnFromTrap

end Sys2Proof.Machine
end

