-- ==== Sys2Proof/Machine/LoadStore.lean ====
section
/-! DEFINITION. The loads and stores (49_load_store_undocumented.md, section 1). -/

namespace Sys2Proof.Machine

/-- LDA (rule R247). -/
def execLda (o : ReadOperand) (s : State) : Result := .next ((s.writeA (s.load o)).advance o.mode)

/-- LDX (rule R248). -/
def execLdx (o : ReadOperand) (s : State) : Result := .next (((s.setX (s.load o)).setZN (s.load o)).advance o.mode)

/-- LDY (rule R249). -/
def execLdy (o : ReadOperand) (s : State) : Result := .next (((s.setY (s.load o)).setZN (s.load o)).advance o.mode)

/-- STA (rule R250). -/
def execSta (m : MemOperand) (s : State) : Result := .next ((s.memWrite (s.effectiveAddress m) s.a).advance m.mode)

/-- STX (rule R251). -/
def execStx (m : MemOperand) (s : State) : Result := .next ((s.memWrite (s.effectiveAddress m) s.x).advance m.mode)

/-- STY (rule R252). -/
def execSty (m : MemOperand) (s : State) : Result := .next ((s.memWrite (s.effectiveAddress m) s.y).advance m.mode)

end Sys2Proof.Machine
end

