-- ==== Sys2Proof/Machine/Logic.lean ====
section
/-! DEFINITION. AND, ORA and EOR (42_logic.md). -/

namespace Sys2Proof.Machine

/-- AND (rule R170). -/
def execAnd (o : ReadOperand) (s : State) : Result := .next ((s.writeA (s.a &&& s.load o)).advance o.mode)

/-- ORA (rule R171). -/
def execOra (o : ReadOperand) (s : State) : Result := .next ((s.writeA (s.a ||| s.load o)).advance o.mode)

/-- EOR (rule R172). -/
def execEor (o : ReadOperand) (s : State) : Result := .next ((s.writeA (s.a ^^^ s.load o)).advance o.mode)

end Sys2Proof.Machine
end

