-- ==== Sys2Proof/Machine/Shift.lean ====
section
/-! DEFINITION. ASL, LSR, ROL and ROR (43_shift.md). -/

namespace Sys2Proof.Machine

/-- The operand `v` of a shift or rotate (rule R175). -/
def State.shiftSource (s : State) : ShiftOperand → Byte
  | .accumulator => s.a
  | .memory m => s.loadMem m

/-- Writes the result of a shift or rotate where its operand came from (rule R175): only the accumulator form writes Z and N. -/
def State.shiftStore (s : State) (o : ShiftOperand) (result : Byte) (carry : Bool) : State :=
  match o with
  | .accumulator => (s.setFlag .c carry).writeA result
  | .memory m => (s.setFlag .c carry).memWrite (s.effectiveAddress m) result

/-- ASL (rule R176): the carry is bit 7 of the operand. -/
def execAsl (o : ShiftOperand) (s : State) : Result :=
  let v := s.shiftSource o
  .next ((s.shiftStore o (shiftLeft v) (v.getLsbD 7)).advance o.mode)

/-- LSR (rule R177): the carry is bit 0 of the operand. -/
def execLsr (o : ShiftOperand) (s : State) : Result :=
  let v := s.shiftSource o
  .next ((s.shiftStore o (shiftRight v) (v.getLsbD 0)).advance o.mode)

/-- ROL (rule R178): the previous carry enters bit 0. -/
def execRol (o : ShiftOperand) (s : State) : Result :=
  let v := s.shiftSource o
  .next ((s.shiftStore o (rotateLeft v (s.flag .c)) (v.getLsbD 7)).advance o.mode)

/-- ROR (rule R179): the previous carry enters bit 7. -/
def execRor (o : ShiftOperand) (s : State) : Result :=
  let v := s.shiftSource o
  .next ((s.shiftStore o (rotateRight v (s.flag .c)) (v.getLsbD 0)).advance o.mode)

end Sys2Proof.Machine
end

