-- ==== Sys2Proof/Machine/Stack.lean ====
section
/-! DEFINITION. The stack instructions, register transfers, flag set and clear, NOP and STP (48_stack_transfer_flags.md). -/

namespace Sys2Proof.Machine

/-- PHA (rule R217). -/
def execPha (s : State) : Result := .next ((s.push s.a).advance .implied)

/-- PHP (rule R218): P is pushed exactly as held. -/
def execPhp (s : State) : Result := .next ((s.push s.p).advance .implied)

/-- PLA (rule R219). -/
def execPla (s : State) : Result := .next ((s.pull.writeA s.pulled).advance .implied)

/-- PLP (rule R220): all eight bits of P are taken from the stack. -/
def execPlp (s : State) : Result := .next ((s.pull.setP s.pulled).advance .implied)

/-- TAX (rule R221): the flags come from the write of A's own value. -/
def execTax (s : State) : Result := .next (((s.setX s.a).writeA s.a).advance .implied)

/-- TAY (rule R222): the flags come from the write of A's own value. -/
def execTay (s : State) : Result := .next (((s.setY s.a).writeA s.a).advance .implied)

/-- TXA (rule R223). -/
def execTxa (s : State) : Result := .next ((s.writeA s.x).advance .implied)

/-- TYA (rule R224). -/
def execTya (s : State) : Result := .next ((s.writeA s.y).advance .implied)

/-- TXS (rule R225): no flag is written. -/
def execTxs (s : State) : Result := .next ((s.setSP s.x).advance .implied)

/-- TSX (rule R226). -/
def execTsx (s : State) : Result := .next (((s.setX s.sp).setZN s.sp).advance .implied)

/-- SEC (rule R227). -/
def execSec (s : State) : Result := .next ((s.setFlag .c true).advance .implied)

/-- CLC (rule R228). -/
def execClc (s : State) : Result := .next ((s.setFlag .c false).advance .implied)

/-- SEI (rule R229). -/
def execSei (s : State) : Result := .next ((s.setFlag .i true).advance .implied)

/-- CLI (rule R230). -/
def execCli (s : State) : Result := .next ((s.setFlag .i false).advance .implied)

/-- SED (rule R231). -/
def execSed (s : State) : Result := .next ((s.setFlag .d true).advance .implied)

/-- CLD (rule R232). -/
def execCld (s : State) : Result := .next ((s.setFlag .d false).advance .implied)

/-- CLV (rule R233). -/
def execClv (s : State) : Result := .next ((s.setFlag .v false).advance .implied)

/-- NOP in any of its encodings (rule R234): only the advance by its mode's length. -/
def execNop (o : NopOperand) (s : State) : Result := .next (s.advance o.mode)

/-- STP (rule R235): the run state becomes Halted, and PC still advances. -/
def execStp (s : State) : Result := .next ((s.setRunState .halted).advance .implied)

end Sys2Proof.Machine
end

