-- ==== Sys2Proof/Machine/Unimplemented.lean ====
section
/-! DEFINITION. The 18 undocumented mnemonics (49_load_store_undocumented.md, section 2): the effect of each is the
unimplemented-mnemonic fault (rules R253, R276). -/

namespace Sys2Proof.Machine

/-- SLO (rule R254). -/
def execSlo (s : State) : Result := .next (s.raiseUnimplemented .slo)

/-- RLA (rule R255). -/
def execRla (s : State) : Result := .next (s.raiseUnimplemented .rla)

/-- SRE (rule R256). -/
def execSre (s : State) : Result := .next (s.raiseUnimplemented .sre)

/-- RRA (rule R257). -/
def execRra (s : State) : Result := .next (s.raiseUnimplemented .rra)

/-- DCP (rule R258). -/
def execDcp (s : State) : Result := .next (s.raiseUnimplemented .dcp)

/-- ISC (rule R259). -/
def execIsc (s : State) : Result := .next (s.raiseUnimplemented .isc)

/-- ANC (rule R260). -/
def execAnc (s : State) : Result := .next (s.raiseUnimplemented .anc)

/-- ALR (rule R261). -/
def execAlr (s : State) : Result := .next (s.raiseUnimplemented .alr)

/-- ARR (rule R262). -/
def execArr (s : State) : Result := .next (s.raiseUnimplemented .arr)

/-- XAA (rule R263). -/
def execXaa (s : State) : Result := .next (s.raiseUnimplemented .xaa)

/-- LAX (rule R264). -/
def execLax (s : State) : Result := .next (s.raiseUnimplemented .lax)

/-- SAX (rule R265). -/
def execSax (s : State) : Result := .next (s.raiseUnimplemented .sax)

/-- AHX (rule R266). -/
def execAhx (s : State) : Result := .next (s.raiseUnimplemented .ahx)

/-- TAS (rule R267). -/
def execTas (s : State) : Result := .next (s.raiseUnimplemented .tas)

/-- SHY (rule R268). -/
def execShy (s : State) : Result := .next (s.raiseUnimplemented .shy)

/-- SHX (rule R269). -/
def execShx (s : State) : Result := .next (s.raiseUnimplemented .shx)

/-- LAS (rule R270). -/
def execLas (s : State) : Result := .next (s.raiseUnimplemented .las)

/-- AXS (rule R271). -/
def execAxs (s : State) : Result := .next (s.raiseUnimplemented .axs)

end Sys2Proof.Machine
end

