-- ==== Sys2Proof/Machine/Dispatch.lean ====
section
/-! DEFINITION. Dispatch by mnemonic (rule R136): one arm per constructor of Instr, each one call of that mnemonic's meaning. A
meaning is the Execute stage together with the advance of rule R137, so the state it is given still holds pc0 in PC. -/

namespace Sys2Proof.Machine

def exec (i : Instr) (s : State) : Host.Outcome State Fault Refusal :=
  match i with
  | .adc o => Sys2Proof.Machine.execAdc o s
  | .sbc _ o => Sys2Proof.Machine.execSbc o s
  | .and o => Sys2Proof.Machine.execAnd o s
  | .ora o => Sys2Proof.Machine.execOra o s
  | .eor o => Sys2Proof.Machine.execEor o s
  | .asl o => Sys2Proof.Machine.execAsl o s
  | .lsr o => Sys2Proof.Machine.execLsr o s
  | .rol o => Sys2Proof.Machine.execRol o s
  | .ror o => Sys2Proof.Machine.execRor o s
  | .cmp o => Sys2Proof.Machine.execCmp o s
  | .cpx o => Sys2Proof.Machine.execCpx o s
  | .cpy o => Sys2Proof.Machine.execCpy o s
  | .inc m => Sys2Proof.Machine.execInc m s
  | .dec m => Sys2Proof.Machine.execDec m s
  | .inx => Sys2Proof.Machine.execInx s
  | .iny => Sys2Proof.Machine.execIny s
  | .dex => Sys2Proof.Machine.execDex s
  | .dey => Sys2Proof.Machine.execDey s
  | .bcc b1 => Sys2Proof.Machine.execBcc b1 s
  | .bcs b1 => Sys2Proof.Machine.execBcs b1 s
  | .beq b1 => Sys2Proof.Machine.execBeq b1 s
  | .bmi b1 => Sys2Proof.Machine.execBmi b1 s
  | .bne b1 => Sys2Proof.Machine.execBne b1 s
  | .bpl b1 => Sys2Proof.Machine.execBpl b1 s
  | .bvc b1 => Sys2Proof.Machine.execBvc b1 s
  | .bvs b1 => Sys2Proof.Machine.execBvs b1 s
  | .bit m => Sys2Proof.Machine.execBit m s
  | .jmp o => Sys2Proof.Machine.execJmp o s
  | .jsr addr => Sys2Proof.Machine.execJsr addr s
  | .rts => Sys2Proof.Machine.execRts s
  | .brk => Sys2Proof.Machine.execBrk s
  | .rti => Sys2Proof.Machine.execRti s
  | .pha => Sys2Proof.Machine.execPha s
  | .php => Sys2Proof.Machine.execPhp s
  | .pla => Sys2Proof.Machine.execPla s
  | .plp => Sys2Proof.Machine.execPlp s
  | .tax => Sys2Proof.Machine.execTax s
  | .tay => Sys2Proof.Machine.execTay s
  | .txa => Sys2Proof.Machine.execTxa s
  | .tya => Sys2Proof.Machine.execTya s
  | .txs => Sys2Proof.Machine.execTxs s
  | .tsx => Sys2Proof.Machine.execTsx s
  | .sec => Sys2Proof.Machine.execSec s
  | .clc => Sys2Proof.Machine.execClc s
  | .sei => Sys2Proof.Machine.execSei s
  | .cli => Sys2Proof.Machine.execCli s
  | .sed => Sys2Proof.Machine.execSed s
  | .cld => Sys2Proof.Machine.execCld s
  | .clv => Sys2Proof.Machine.execClv s
  | .nop _ o => Sys2Proof.Machine.execNop o s
  | .stp _ => Sys2Proof.Machine.execStp s
  | .lda o => Sys2Proof.Machine.execLda o s
  | .ldx o => Sys2Proof.Machine.execLdx o s
  | .ldy o => Sys2Proof.Machine.execLdy o s
  | .sta m => Sys2Proof.Machine.execSta m s
  | .stx m => Sys2Proof.Machine.execStx m s
  | .sty m => Sys2Proof.Machine.execSty m s
  | .slo _ => Sys2Proof.Machine.execSlo s
  | .rla _ => Sys2Proof.Machine.execRla s
  | .sre _ => Sys2Proof.Machine.execSre s
  | .rra _ => Sys2Proof.Machine.execRra s
  | .dcp _ => Sys2Proof.Machine.execDcp s
  | .isc _ => Sys2Proof.Machine.execIsc s
  | .anc _ _ => Sys2Proof.Machine.execAnc s
  | .alr _ => Sys2Proof.Machine.execAlr s
  | .arr _ => Sys2Proof.Machine.execArr s
  | .xaa _ => Sys2Proof.Machine.execXaa s
  | .lax _ => Sys2Proof.Machine.execLax s
  | .sax _ => Sys2Proof.Machine.execSax s
  | .ahx _ => Sys2Proof.Machine.execAhx s
  | .tas _ => Sys2Proof.Machine.execTas s
  | .shy _ => Sys2Proof.Machine.execShy s
  | .shx _ => Sys2Proof.Machine.execShx s
  | .las _ => Sys2Proof.Machine.execLas s
  | .axs _ => Sys2Proof.Machine.execAxs s

end Sys2Proof.Machine
end

