-- ==== Sys2Proof/Machine/Pipeline.lean ====
section
/-! DEFINITION. The fetch-decode-execute step, parameterized by where the instruction bytes come from (rules R130 to R143). -/

namespace Sys2Proof.Machine

/-- Where a step takes its instruction bytes from (rules R131, R142). -/
inductive Source where
  | memory
  | buffer (buf : List Byte)
  deriving DecidableEq, Repr

/-- Byte `i` of the instruction at PC in memory mode, the address reduced modulo 65536 (rule R132). -/
def State.instrByte (s : State) (i : Nat) : Byte := s.memRead (s.pc + BitVec.ofNat 16 i)

/-- The instruction bytes of a step: in memory mode the opcode byte at PC and the operand bytes its mode takes, no others
(rules R131, R132); in buffer mode the buffer (rule R142). -/
def State.fetch (s : State) : Source → List Byte
  | .memory => (List.range (1 + operandLength (decodeMode (s.instrByte 0)))).map s.instrByte
  | .buffer buf => buf

/-- `Step(src)` of rule R138. A state whose run state is not Running has no step (rule R140). -/
def stepFrom (src : Source) (s : State) : Result :=
  match s.runState with
  | .halted => .fault .halted
  | .faulted => .fault .faulted
  | .running =>
    match decode (s.fetch src) with
    | .ok (i, _) => exec i s
    | .error e => .refused (.undecoded e)

/-- Writes consecutive bytes through the mirror map from an address up, in increasing order (rule R301). -/
def State.writeBytes (s : State) (a : Addr) : List Byte → State
  | [] => s
  | v :: rest => (s.memWrite a v).writeBytes (a + 1) rest

end Sys2Proof.Machine
end

