-- ==== Sys2Proof/Machine/Step.lean ====
section
/-! DEFINITION. The step of the machine, `Step(Memory)` of rule R138, and the placing of an instruction where it fetches. -/

namespace Sys2Proof.Machine

/-- One step of the core: the instruction at PC, executed to completion (rules R130, R138). -/
def step (s : State) : Host.Outcome State Fault Refusal := stepFrom .memory s

/-- The state with a table word stored at PC, where a memory-mode step fetches (rule R131). Only memory changes. -/
def State.withFetchWord (s : State) (nbits w : Nat) : State := s.writeBytes s.pc (tableBytes nbits w)

end Sys2Proof.Machine
end

