-- ==== Sys2Proof/Machine/Entry.lean ====
section
/-! DEFINITION. The entry points and what the host may do (rules R6, R72, R141 to R146, R301): launch values, program load, the
collaborator's writes between steps, the buffer-mode step, the run, and the codes the interface reports. The start PC, the
program bytes, the buffer, the launch values and the collaborator's writes are inputs, so they are arguments here. -/

namespace Sys2Proof.Machine

/-- The construction state with launch values for the registers (rules R51, R145). -/
def State.launch (a x y sp p : Byte) (pc : Addr) : State :=
  { State.reset with a := a, x := x, y := y, sp := sp, p := p, pc := pc }

/-- Program load (rule R301): byte i is written to address i through the mirror map; at most 65536 bytes. -/
def State.loadProgram (s : State) (bytes : List Byte) : Result :=
  if bytes.length ≤ Config.addressSpace then .next (s.writeBytes 0 bytes) else .refused .programTooLong

/-- A collaborator's writes between two steps, in order, through the mirror map (rule R72). -/
def State.collaborate (s : State) : List (Addr × Byte) → State
  | [] => s
  | (a, v) :: rest => (s.memWrite a v).collaborate rest

/-- `StepBuffer(buf)` of rule R142. -/
def stepBuffer (buf : List Byte) (s : State) : Result := stepFrom (.buffer buf) s

/-- The loop of rule R141, at most as many steps as there are inputs: input k is what the collaborator writes after step k, if
the run goes on (rule R72). -/
def runLoop : List (List (Addr × Byte)) → State → State
  | [], s => s
  | writes :: rest, s =>
    match step s with
    | .next t => if t.runState = .running then runLoop rest (t.collaborate writes) else t
    | .fault _ => s
    | .refused _ => s

/-- `Run(pc)` of rule R141, under the fuel of rule R146. A result that is still Running says "no end within fuel". -/
def run (pc : Addr) (inputs : List (List (Addr × Byte))) (s : State) : State := runLoop inputs (s.setPC pc)

/-- `Run(pc)` with no collaborator (rule R72). -/
def runAlone (pc : Addr) (fuel : Nat) (s : State) : State := run pc (List.replicate fuel []) s

/-- The 2-bit `run_state` code of rule R144. -/
def RunState.code : RunState → BitVec 2
  | .running => 0
  | .halted => 1
  | .faulted => 2

/-- The mnemonic code of a fault record (rule R277). -/
def mnemonicCode : Undocumented → Nat
  | .slo => 1
  | .rla => 2
  | .sre => 3
  | .rra => 4
  | .dcp => 5
  | .isc => 6
  | .anc => 7
  | .alr => 8
  | .arr => 9
  | .xaa => 10
  | .lax => 11
  | .sax => 12
  | .ahx => 13
  | .tas => 14
  | .shy => 15
  | .shx => 16
  | .las => 17
  | .axs => 18

end Sys2Proof.Machine
end

