-- ==== Sys2Proof/Safety.lean ====
section
/-! DEFINITION. The terms claims are stated in: what an instruction leaves unchanged, which addresses share a cell, the
invariants of the machine, and what counts as a safe run. -/

namespace Sys2Proof.Machine

/-- The byte registers other than P, which is spoken of flag by flag (rule R30). -/
inductive Reg where
  | a | x | y | sp
  deriving DecidableEq, Repr

/-- The value of a byte register. -/
def State.reg (s : State) : Reg → Byte
  | .a => s.a
  | .x => s.x
  | .y => s.y
  | .sp => s.sp

/-- From `s` to `t` only the listed registers and flags may change; the run state and the fault record do not. PC and memory are
spoken of separately. -/
def ChangesOnly (regs : List Reg) (flags : List Flag) (s t : State) : Prop :=
  (∀ r, r ∉ regs → t.reg r = s.reg r) ∧ (∀ f, f ∉ flags → t.flag f = s.flag f) ∧
    t.runState = s.runState ∧ t.faultRecord = s.faultRecord

/-- The mirror groups of rule R62, written from its own words and not from `cellOf`. -/
def MirrorGroup (a b : Addr) : Prop :=
  (a.toNat < 0x2000 ∧ b.toNat < 0x2000 ∧ a.toNat % 2048 = b.toNat % 2048) ∨
    (0x2000 ≤ a.toNat ∧ a.toNat < 0x4000 ∧ 0x2000 ≤ b.toNat ∧ b.toNat < 0x4000 ∧ a.toNat % 8 = b.toNat % 8) ∨
    (0x4000 ≤ a.toNat ∧ a = b)

/-- Every address reads as before. -/
def SameBytes (s t : State) : Prop := ∀ a, t.memRead a = s.memRead a

/-- Every address outside the mirror groups of the listed addresses reads as before. -/
def SameBytesOutside (stored : List Addr) (s t : State) : Prop :=
  ∀ a, (∀ w ∈ stored, ¬ MirrorGroup w a) → t.memRead a = s.memRead a

/-- Z and N say what a byte's value says (rules R40, R41). -/
def ZNof (v : Byte) (t : State) : Prop := (t.flag .z = true ↔ v = 0) ∧ t.flag .n = v.getLsbD 7

/-- PC is where the default advance of rule R137 leaves it: `1 + OperandLength(mode)` past the opcode, modulo 65536. -/
def Advanced (md : Mode) (s t : State) : Prop := t.pc.toNat = (s.pc.toNat + 1 + operandLength md) % 65536

/-- The invariant of the machine: memory is in its canonical form, and the fault record is filled exactly when the run state is
Faulted (rule R48). -/
def State.Inv (s : State) : Prop := s.mem.wf ∧ (s.faultRecord.isSome = true ↔ s.runState = .faulted)

/-- Where the run state is Faulted, the recorded address is PC (rule R276). -/
def State.FaultAtPc (s : State) : Prop := s.runState = .faulted → ∃ mn, s.faultRecord = some ⟨mn, s.pc⟩

/-- A state no fault has stopped. A run is safe when every state of it is: it ends at STP or does not end (rule R146). -/
def State.Safe (s : State) : Prop := s.runState ≠ .faulted

end Sys2Proof.Machine
end

