-- ==== Sys2Proof/Certificates/Slice0/Obligations.lean ====
section
/-! DEFINITION. The statements for the provers, about the machine and never about a program. Where a statement rests on a
decision the spec marks as its own, its docstring names it. -/

open Sys2Proof Sys2Proof.Machine

/-- The state at construction (10_state.md section 5, 70_reset_and_hazards.md section 1). The source gives only the run
state; the register values are the spec's own decision D19 and the memory contents its decision D35. -/
def Obligations.ConstructionState : Prop :=
  State.reset.a = 0x00 ∧ State.reset.x = 0x00 ∧ State.reset.y = 0x00 ∧ State.reset.sp = 0x00 ∧ State.reset.p = 0x00 ∧
    State.reset.pc = 0x0000 ∧ State.reset.runState = .running ∧ State.reset.faultRecord = none ∧
    ∀ a, State.reset.memRead a = 0x00

/-- The invariant holds at construction. The canonical form of memory is the model's own (assumption 2); the fault record's
part is 10_state.md section 4. -/
def Obligations.ConstructionStateMeetsInvariant : Prop :=
  State.reset.Inv ∧ State.reset.FaultAtPc

/-- Every step, of either entry point, keeps the invariant, from every state that meets it and not only from reached ones.
The canonical form is the model's own (assumption 2); the fault record's part is 10_state.md section 4. -/
def Obligations.StepKeepsInvariant : Prop :=
  (∀ s t : State, s.Inv → step s = .next t → t.Inv ∧ t.FaultAtPc) ∧
    ∀ (buf : List Byte) (s t : State), s.Inv → stepBuffer buf s = .next t → t.Inv ∧ t.FaultAtPc

/-- The invariant holds along every run, with any collaborator writes between steps as input, and after every program load.
-/
def Obligations.RunKeepsInvariant : Prop :=
  (∀ (pc : Addr) (inputs : List (List (Addr × Byte))) (s : State), s.Inv → (run pc inputs s).Inv) ∧
    ∀ (bytes : List Byte) (s t : State), s.Inv → s.loadProgram bytes = .next t → t.Inv

/-- A few words written out byte by byte from the spec's encodings. A sanity statement. -/
def Obligations.KnownWordsDecode : Prop :=
  decode [0xA9, 0x3C] = .ok (.lda (.immediate 0x3C), []) ∧
    decode [0x69, 0x1E] = .ok (.adc (.immediate 0x1E), []) ∧
    decode [0x85, 0x07] = .ok (.sta (.zeroPage 0x07), []) ∧
    decode [0x02] = .ok (.stp 0x02, []) ∧
    decode [0xAD, 0x12, 0x34] = .ok (.lda (.memory (.absolute 0x1234)), []) ∧
    decode [0x6C, 0x03, 0x00] = .ok (.jmp (.indirect 0x0300), []) ∧
    decode [0xF0, 0xFE] = .ok (.beq 0xFE, []) ∧
    decode [0x0A] = .ok (.asl .accumulator, []) ∧
    decode [0x96, 0xFF] = .ok (.stx (.zeroPageY 0xFF), []) ∧
    decode [0xA7, 0x10] = .ok (.lax (.memory (.zeroPage 0x10)), [])

/-- Decode and encode agree on every well-formed instruction. The decoder follows the opcode map of 30_encoding.md, the
encoder and well-formedness the Encoding lines of the instruction rules. -/
def Obligations.DecodeOfEncode : Prop :=
  ∀ i : Instr, i.wellFormed = true →
    ∃ bytes, encode i = some bytes ∧ bytes.length = 1 + operandLength i.mode ∧
      ∀ rest, decode (bytes ++ rest) = .ok (i, rest)

/-- The other direction: an instruction's bytes are recovered from it, so each of the 256 opcodes with each operand is an
instruction of its own. -/
def Obligations.EncodeOfDecode : Prop :=
  ∀ bytes i rest, decode bytes = .ok (i, rest) →
    i.wellFormed = true ∧ ∃ own, encode i = some own ∧ bytes = own ++ rest

/-- Rule R133: decode takes mnemonic, mode and length from the tables and never fails. -/
def Obligations.DecodeNeverFails : Prop :=
  ∀ b0 b1 b2 rest, ∃ i,
    decode (b0 :: b1 :: b2 :: rest) = .ok (i, (b0 :: b1 :: b2 :: rest).drop (1 + operandLength (decodeMode b0))) ∧
      i.mnemonic = decodeMnemonic b0 ∧ i.mode = decodeMode b0

/-- The mirror groups of 20_memory.md section 1, whose list the spec marks as derived from its table, against the machine's
memory operations. -/
def Obligations.MirrorGroupsShareOneCell : Prop :=
  ∀ (s : State) (a b : Addr) (v : Byte), s.Inv →
    (MirrorGroup a b → (s.memWrite a v).memRead b = v) ∧
      (¬ MirrorGroup a b → (s.memWrite a v).memRead b = s.memRead b)

/-- What the canonical form of memory is for; that form is the model's choice (assumption 2). -/
def Obligations.CanonicalMemoriesWithEqualBytesAreEqual : Prop :=
  ∀ m n : Memory, m.wf → n.wf → (∀ a : Addr, m.read (cellOf a) = n.read (cellOf a)) → m = n

/-- Rules R45 and R46, the stack protocol. -/
def Obligations.PushAndPull : Prop :=
  ∀ (s : State) (v : Byte), s.Inv →
    let cell (sp : Byte) : Addr := BitVec.ofNat 16 (0x0100 + sp.toNat)
    ((s.push v).memRead (cell s.sp) = v ∧ (s.push v).sp.toNat = (s.sp.toNat + 255) % 256 ∧
      SameBytesOutside [cell s.sp] s (s.push v) ∧ ChangesOnly [.sp] [] s (s.push v) ∧ (s.push v).pc = s.pc) ∧
    (s.pull.sp.toNat = (s.sp.toNat + 1) % 256 ∧ s.pulled = s.memRead (cell s.pull.sp) ∧
      SameBytes s s.pull ∧ ChangesOnly [.sp] [] s s.pull ∧ s.pull.pc = s.pc) ∧
    (s.push v).pulled = v ∧ (s.push v).pull.sp = s.sp

/-- Rule R40: the A-write side effect, and over the whole machine: every instruction whose rule writes A shows it, TAX and
TAY with A's own value among them, and no other instruction changes A. -/
def Obligations.EveryWriteOfASetsZeroAndNegative : Prop :=
  (∀ (s : State) (v : Byte), (s.writeA v).a = v ∧ ZNof v (s.writeA v) ∧ ChangesOnly [.a] [.z, .n] s (s.writeA v) ∧
      SameBytes s (s.writeA v) ∧ (s.writeA v).pc = s.pc) ∧
    ∀ (i : Instr) (s t : State), exec i s = .next t →
      let writesA := i.mnemonic ∈ [Mnemonic.lda, .adc, .sbc, .and, .ora, .eor, .pla, .txa, .tya, .tax, .tay] ∨
        i.mnemonic ∈ [Mnemonic.asl, .lsr, .rol, .ror] ∧ i.mode = .implied
      (writesA → ZNof t.a t) ∧ (t.a ≠ s.a → writesA)

/-- Rules R97 to R100, R104 and R105: the modes with one operand byte. The last clause is the operand load of 40_pipeline.md
section 1, for every memory operand. -/
def Obligations.ByteOperandResolution : Prop :=
  ∀ (s : State) (b1 : Byte),
    let at0 (n : Nat) : Nat := (s.memRead (BitVec.ofNat 16 (n % 256))).toNat
    s.load (.immediate b1) = b1 ∧
    (s.effectiveAddress (.zeroPage b1)).toNat = b1.toNat ∧
    (s.effectiveAddress (.zeroPageX b1)).toNat = (b1.toNat + s.x.toNat) % 256 ∧
    (s.effectiveAddress (.zeroPageY b1)).toNat = (b1.toNat + s.y.toNat) % 256 ∧
    (s.effectiveAddress (.indexedIndirect b1)).toNat =
      at0 (b1.toNat + s.x.toNat + 1) * 256 + at0 (b1.toNat + s.x.toNat) ∧
    (s.effectiveAddress (.indirectIndexed b1)).toNat =
      (at0 (b1.toNat + 1) * 256 + at0 b1.toNat + s.y.toNat) % 65536 ∧
    ∀ m : MemOperand, s.load (.memory m) = s.memRead (s.effectiveAddress m)

/-- The resolver on the decoded bytes, and the effective addresses the meanings use. High byte first is the spec's decision
D1, the missing page-wrap defect its decision D14; the Relative value is the intermediate of 30_encoding.md section 3 and no
branch target. -/
def Obligations.WordOperandResolution : Prop :=
  (∀ (s : State) (a : Addr), s.effectiveAddress (.absolute a) = a ∧
      (s.effectiveAddress (.absoluteX a)).toNat = (a.toNat + s.x.toNat) % 65536 ∧
      (s.effectiveAddress (.absoluteY a)).toNat = (a.toNat + s.y.toNat) % 65536) ∧
  ∀ (s : State) (b0 hi lo : Byte) (rest : List Byte) (i : Instr) (left : List Byte),
    decode (b0 :: hi :: lo :: rest) = .ok (i, left) →
    let word := hi.toNat * 256 + lo.toNat
    (decodeMode b0 = .absolute → s.resolve i = .address (BitVec.ofNat 16 word)) ∧
    (decodeMode b0 = .absoluteX → s.resolve i = .address (BitVec.ofNat 16 (word + s.x.toNat))) ∧
    (decodeMode b0 = .absoluteY → s.resolve i = .address (BitVec.ofNat 16 (word + s.y.toNat))) ∧
    (decodeMode b0 = .indirect → s.resolve i = .address (BitVec.ofNat 16
      ((s.memRead (BitVec.ofNat 16 (word + 1))).toNat * 256 + (s.memRead (BitVec.ofNat 16 word)).toNat))) ∧
    (decodeMode b0 = .relative → s.resolve i = .address (BitVec.ofInt 16 (s.pc.toNat + hi.toInt)))

/-- The step of 40_pipeline.md section 1, through which every per-instruction statement reaches a run. -/
def Obligations.StepRunsDecodedInstruction : Prop :=
  ∀ s i rest, s.runState = .running →
    decode [s.memRead s.pc, s.memRead (s.pc + 1), s.memRead (s.pc + 2)] = .ok (i, rest) → step s = exec i s

/-- 60_exceptions.md section 1: there is no exceptional event but the fault (which is a next state) and BRK. -/
def Obligations.RunningStatesAlwaysStep : Prop :=
  ∀ s, s.runState = .running → ∃ t, step s = .next t

/-- Halted and Faulted are final (the spec's decisions D18 and D32; the named outcomes are assumption 3). -/
def Obligations.StoppedStatesHaveNoStep : Prop :=
  ∀ s, (s.runState = .halted → step s = .fault .halted ∧ ∀ buf, stepBuffer buf s = .fault .halted) ∧
    (s.runState = .faulted → step s = .fault .faulted ∧ ∀ buf, stepBuffer buf s = .fault .faulted) ∧
    (s.runState ≠ .running → ∀ pc inputs, run pc inputs s = { s with pc := pc })

/-- The transitions of the run state (10_state.md section 4, the spec's decision D17). -/
def Obligations.RunStateChangesOnlyByStpAndUndocumented : Prop :=
  ∀ s t, step s = .next t →
    (t.runState = .halted ↔ decodeMnemonic (s.memRead s.pc) = .stp) ∧
    (t.runState = .faulted ↔ ∃ u, decodeMnemonic (s.memRead s.pc) = .undocumented u) ∧
    (∀ u, decodeMnemonic (s.memRead s.pc) = .undocumented u →
      t = { s with runState := .faulted, faultRecord := some ⟨u, s.pc⟩ }) ∧
    (t.runState ≠ .faulted → t.faultRecord = s.faultRecord)

/-- Both entry points route through one per-instruction core (40_pipeline.md section 2). -/
def Obligations.BufferAndMemoryModesAgree : Prop :=
  ∀ (s : State) (buf : List Byte), buf.length = 1 + operandLength (decodeMode (s.memRead s.pc)) →
    (∀ k, k < buf.length → buf[k]? = some (s.memRead (s.pc + BitVec.ofNat 16 k))) → stepBuffer buf s = step s

/-- The buffer entry point's length requirement (the spec's decision D26). The names of the refusals are the model's choice
(assumption 9). The last clause, for a buffer longer than its instruction (longer than three bytes too), is the model's
reading of 'at least' in 40_pipeline.md section 2 (assumption 10, DEDUCED). -/
def Obligations.ShortBuffersAreRefused : Prop :=
  ∀ (s : State) (b0 : Byte) (rest : List Byte), s.runState = .running →
    stepBuffer [] s = .refused (.undecoded .noOpcode) ∧
    (rest.length < operandLength (decodeMode b0) → stepBuffer (b0 :: rest) s = .refused (.undecoded (.truncated b0))) ∧
    (operandLength (decodeMode b0) ≤ rest.length →
      ∃ i left t, decode (b0 :: rest) = .ok (i, left) ∧ stepBuffer (b0 :: rest) s = .next t ∧ exec i s = .next t)

/-- That an instruction stored at PC is what is fetched there, mirror map and wrap included (withFetchWord is the model's
own, assumption 7). -/
def Obligations.PlacedWordIsRunNext : Prop :=
  ∀ (s : State) (nbits w : Nat) (i : Instr), s.Inv → s.runState = .running → decodeTableWord nbits w = some i →
    step (s.withFetchWord nbits w) = exec i (s.withFetchWord nbits w)

/-- The program load of 70_reset_and_hazards.md section 1 (the spec's decision D33). The last clause, the refusal of more
than 65536 bytes, is the model's choice (assumption 9, DESIGN CHOICE): the spec says nothing of a longer load. -/
def Obligations.ProgramLoadPlacesBytes : Prop :=
  ∀ (s : State) (bytes : List Byte), s.Inv →
    (bytes.length ≤ 65536 → ∃ t, s.loadProgram bytes = .next t ∧ ChangesOnly [] [] s t ∧ t.pc = s.pc ∧
      (∀ k v a, bytes[k]? = some v → MirrorGroup (BitVec.ofNat 16 k) a →
        (∀ j, k < j → j < bytes.length → ¬ MirrorGroup (BitVec.ofNat 16 j) a) → t.memRead a = v) ∧
      ∀ a, (∀ k, k < bytes.length → ¬ MirrorGroup (BitVec.ofNat 16 k) a) → t.memRead a = s.memRead a) ∧
    (65536 < bytes.length → s.loadProgram bytes = .refused .programTooLong)

/-- The advance of 40_pipeline.md section 1, which the spec derives from its conflicts C1 and C2. -/
def Obligations.DefaultAdvance : Prop :=
  ∀ (i : Instr) (s : State),
    i.mnemonic ∉ [Mnemonic.bcc, .bcs, .beq, .bmi, .bne, .bpl, .bvc, .bvs, .jmp, .jsr, .rts, .brk, .rti] →
    (∀ u, i.mnemonic ≠ .undocumented u) → ∃ t, exec i s = .next t ∧ Advanced i.mode s t

/-- Whole-machine rules: who writes each register and memory (10_state.md sections 1 and 5). -/
def Obligations.OnlyListedInstructionsWriteRegistersAndMemory : Prop :=
  ∀ (i : Instr) (s t : State), exec i s = .next t →
    (t.x ≠ s.x → i.mnemonic ∈ [Mnemonic.ldx, .inx, .dex, .tax, .tsx]) ∧
    (t.y ≠ s.y → i.mnemonic ∈ [Mnemonic.ldy, .iny, .dey, .tay]) ∧
    (t.sp ≠ s.sp → i.mnemonic ∈ [Mnemonic.txs, .pha, .php, .pla, .plp, .jsr, .rts, .brk, .rti]) ∧
    (t.a ≠ s.a → i.mnemonic ∈ [Mnemonic.lda, .adc, .sbc, .and, .ora, .eor, .asl, .lsr, .rol, .ror, .pla, .txa, .tya]) ∧
    (¬ SameBytes s t →
      i.mnemonic ∈ [Mnemonic.sta, .stx, .sty, .inc, .dec, .asl, .lsr, .rol, .ror, .pha, .php, .jsr, .brk])

/-- Whole-machine rules: who writes each flag (10_state.md section 2). -/
def Obligations.OnlyListedInstructionsWriteFlags : Prop :=
  ∀ (i : Instr) (s t : State), exec i s = .next t →
    (t.flag .c ≠ s.flag .c → i.mnemonic ∈
      [Mnemonic.adc, .sbc, .asl, .lsr, .rol, .ror, .cmp, .cpx, .cpy, .sec, .clc, .plp, .rti]) ∧
    (t.flag .v ≠ s.flag .v → i.mnemonic ∈ [Mnemonic.adc, .sbc, .bit, .clv, .plp, .rti]) ∧
    (t.flag .i ≠ s.flag .i → i.mnemonic ∈ [Mnemonic.sei, .cli, .plp, .rti]) ∧
    (t.flag .d ≠ s.flag .d → i.mnemonic ∈ [Mnemonic.sed, .cld, .plp, .rti]) ∧
    (t.flag .b ≠ s.flag .b → i.mnemonic ∈ [Mnemonic.brk, .plp, .rti]) ∧
    (t.flag .u ≠ s.flag .u → i.mnemonic ∈ [Mnemonic.plp, .rti]) ∧
    (t.flag .z ≠ s.flag .z ∨ t.flag .n ≠ s.flag .n → i.mnemonic ∈
      [Mnemonic.lda, .ldx, .ldy, .adc, .sbc, .and, .ora, .eor, .asl, .lsr, .rol, .ror, .cmp, .cpx, .cpy, .inc, .dec,
        .inx, .iny, .dex, .dey, .bit, .pla, .plp, .rti, .tax, .tay, .txa, .tya, .tsx])

/-- P.I has no effect on execution and neither B nor bit 5 changes it (10_state.md section 2); only PHP and BRK push P. -/
def Obligations.InterruptBreakAndUnusedBitsHaveNoEffect : Prop :=
  ∀ (i : Instr) (s : State) (p : Byte), i.mnemonic ≠ .php → i.mnemonic ≠ .brk →
    (∀ f, f ∉ [Flag.i, .b, .u] → flagOf p f = s.flag f) →
    ∃ t q, exec i s = .next t ∧ exec i { s with p := p } = .next { t with p := q } ∧
      ∀ f, f ∉ [Flag.i, .b, .u] → flagOf q f = t.flag f

/-- No instruction but ADC and SBC depends on P.D (the spec's decision D36); only PHP and BRK push P. -/
def Obligations.DecimalModeAffectsOnlyAdcAndSbc : Prop :=
  ∀ (i : Instr) (s : State) (p : Byte), i.mnemonic ∉ [Mnemonic.adc, .sbc, .php, .brk] →
    (∀ f, f ≠ .d → flagOf p f = s.flag f) →
    ∃ t q, exec i s = .next t ∧ exec i { s with p := p } = .next { t with p := q } ∧ ∀ f, f ≠ .d → flagOf q f = t.flag f

/-- ADC (41_arith.md). The carry width is the spec's decision D4 and the BCD formulas its decision D6. -/
def Obligations.AdcResult : Prop :=
  ∀ (o : ReadOperand) (s : State),
    let val (v : Byte) : Nat := if s.flag .d then v.toNat / 16 * 10 + v.toNat % 16 else v.toNat
    let x := val s.a
    let y := val (s.load o)
    let sum := x + y + (s.flag .c).toNat
    let r := sum % 256
    ∃ t, exec (.adc o) s = .next t ∧
      t.a.toNat = (if s.flag .d then (r / 10 * 16 + r % 10) % 256 else r) ∧
      (t.flag .c = true ↔ 256 ≤ sum) ∧
      (t.flag .v = true ↔ (x ^^^ r) &&& (y ^^^ r) &&& 0x80 ≠ 0) ∧
      ZNof t.a t ∧ ChangesOnly [.a] [.c, .v, .z, .n] s t ∧ SameBytes s t ∧ Advanced o.mode s t

/-- SBC (41_arith.md). Its form as ADC of the ones' complement is the spec's decision D5. -/
def Obligations.SbcResult : Prop :=
  ∀ (opcode : Byte) (o : ReadOperand) (s : State),
    let val (v : Byte) : Nat := if s.flag .d then v.toNat / 16 * 10 + v.toNat % 16 else v.toNat
    let x := val s.a
    let y := 255 - val (s.load o)
    let sum := x + y + (s.flag .c).toNat
    let r := sum % 256
    ∃ t, exec (.sbc opcode o) s = .next t ∧
      t.a.toNat = (if s.flag .d then (r / 10 * 16 + r % 10) % 256 else r) ∧
      (t.flag .c = true ↔ 256 ≤ sum) ∧
      (t.flag .v = true ↔ (x ^^^ r) &&& (y ^^^ r) &&& 0x80 ≠ 0) ∧
      ZNof t.a t ∧ ChangesOnly [.a] [.c, .v, .z, .n] s t ∧ SameBytes s t ∧ Advanced o.mode s t

/-- The source's testable property for binary ADC and SBC (95_test_vectors.md V-L1-3): the bit formula for V is
two's-complement overflow. -/
def Obligations.BinaryAddAndSubtractFlagsAreStandard : Prop :=
  ∀ (o : ReadOperand) (opcode : Byte) (s : State), s.flag .d = false →
    let c : Int := if s.flag .c then 1 else 0
    let ua : Int := s.a.toNat
    let um : Int := (s.load o).toNat
    let sa := s.a.toInt
    let sm := (s.load o).toInt
    (∃ t, exec (.adc o) s = .next t ∧ (t.a.toNat : Int) = (ua + um + c) % 256 ∧
      (t.flag .c = true ↔ 255 < ua + um + c) ∧
      (t.flag .v = true ↔ sa + sm + c < -128 ∨ 127 < sa + sm + c)) ∧
    (∃ t, exec (.sbc opcode o) s = .next t ∧ (t.a.toNat : Int) = (ua - um - (1 - c)) % 256 ∧
      (t.flag .c = true ↔ 0 ≤ ua - um - (1 - c)) ∧
      (t.flag .v = true ↔ sa - sm - (1 - c) < -128 ∨ 127 < sa - sm - (1 - c)))

/-- A corner case of ADC in decimal mode (41_arith.md), not the historical part's behaviour. -/
def Obligations.DecimalAddOfValidDigits : Prop :=
  ∀ (o : ReadOperand) (s : State), s.flag .d = true →
    s.a.toNat / 16 ≤ 9 → s.a.toNat % 16 ≤ 9 → (s.load o).toNat / 16 ≤ 9 → (s.load o).toNat % 16 ≤ 9 →
    let dec (v : Byte) : Nat := v.toNat / 16 * 10 + v.toNat % 16
    let sum := dec s.a + dec (s.load o) + (s.flag .c).toNat
    ∃ t, exec (.adc o) s = .next t ∧ t.flag .c = false ∧
      (sum < 100 → t.a.toNat / 16 = sum / 10 ∧ t.a.toNat % 16 = sum % 10)

/-- Rules R170 to R172. -/
def Obligations.LogicResults : Prop :=
  ∀ (o : ReadOperand) (s : State), ∀ e ∈ [(Instr.and o, s.a &&& s.load o), (.ora o, s.a ||| s.load o), (.eor o, s.a ^^^ s.load o)],
    ∃ t, exec e.1 s = .next t ∧ t.a = e.2 ∧ ZNof t.a t ∧ ChangesOnly [.a] [.z, .n] s t ∧ SameBytes s t ∧
      Advanced o.mode s t

/-- The accumulator forms (43_shift.md). That ASL's carry is bit 7 is the spec's decision D4. -/
def Obligations.AccumulatorShiftResults : Prop :=
  ∀ s : State, ∀ e ∈
    [(Instr.asl .accumulator, s.a.toNat * 2 % 256, s.a.getLsbD 7), (.lsr .accumulator, s.a.toNat / 2, s.a.getLsbD 0),
     (.rol .accumulator, (s.a.toNat * 2 + (s.flag .c).toNat) % 256, s.a.getLsbD 7),
     (.ror .accumulator, s.a.toNat / 2 + (s.flag .c).toNat * 128, s.a.getLsbD 0)],
    ∃ t, exec e.1 s = .next t ∧ t.a.toNat = e.2.1 ∧ t.flag .c = e.2.2 ∧ ZNof t.a t ∧
      ChangesOnly [.a] [.c, .z, .n] s t ∧ SameBytes s t ∧ Advanced .implied s t

/-- The memory forms (43_shift.md). That they leave Z and N alone is the spec's decision D31. -/
def Obligations.MemoryShiftResults : Prop :=
  ∀ (m : MemOperand) (s : State), s.Inv →
    let v := s.memRead (s.effectiveAddress m)
    ∀ e ∈
      [(Instr.asl (.memory m), v.toNat * 2 % 256, v.getLsbD 7), (.lsr (.memory m), v.toNat / 2, v.getLsbD 0),
       (.rol (.memory m), (v.toNat * 2 + (s.flag .c).toNat) % 256, v.getLsbD 7),
       (.ror (.memory m), v.toNat / 2 + (s.flag .c).toNat * 128, v.getLsbD 0)],
      ∃ t, exec e.1 s = .next t ∧ (t.memRead (s.effectiveAddress m)).toNat = e.2.1 ∧ t.flag .c = e.2.2 ∧
        ChangesOnly [] [.c] s t ∧ SameBytesOutside [s.effectiveAddress m] s t ∧ Advanced m.mode s t

/-- The compares (44_compare.md). The unsigned reading is the spec's decision D7; that CPX and CPY compare A is its decision
D8. -/
def Obligations.CompareResults : Prop :=
  ∀ (o : ReadOperand) (s : State), ∀ e ∈ [(Instr.cmp o, s.load o), (.cpx o, s.x), (.cpy o, s.y)],
    ∃ t, exec e.1 s = .next t ∧ (t.flag .c = true ↔ e.2.toNat < s.a.toNat) ∧ (t.flag .n = true ↔ s.a.toNat < e.2.toNat) ∧
      (t.flag .z = true ↔ s.a.toNat = e.2.toNat) ∧ ChangesOnly [] [.c, .z, .n] s t ∧ SameBytes s t ∧
      Advanced o.mode s t

/-- Rules R188 and R189. -/
def Obligations.MemoryIncrementAndDecrement : Prop :=
  ∀ (m : MemOperand) (s : State), s.Inv →
    let v := s.memRead (s.effectiveAddress m)
    ∀ e ∈ [(Instr.inc m, (v.toNat + 1) % 256), (.dec m, (v.toNat + 255) % 256)],
      ∃ t, exec e.1 s = .next t ∧ (t.memRead (s.effectiveAddress m)).toNat = e.2 ∧
        ZNof (t.memRead (s.effectiveAddress m)) t ∧ ChangesOnly [] [.z, .n] s t ∧
        SameBytesOutside [s.effectiveAddress m] s t ∧ Advanced m.mode s t

/-- Rules R190 to R193. -/
def Obligations.RegisterIncrementAndDecrement : Prop :=
  ∀ s : State, ∀ e ∈
    [(Instr.inx, Reg.x, (s.x.toNat + 1) % 256), (.iny, .y, (s.y.toNat + 1) % 256), (.dex, .x, (s.x.toNat + 255) % 256),
     (.dey, .y, (s.y.toNat + 255) % 256)],
    ∃ t, exec e.1 s = .next t ∧ (t.reg e.2.1).toNat = e.2.2 ∧ ZNof (t.reg e.2.1) t ∧ ChangesOnly [e.2.1] [.z, .n] s t ∧
      SameBytes s t ∧ Advanced .implied s t

/-- The branches (46_branch_bit.md section 1). The target is the spec's resolution C1; which flag each mnemonic tests is its
decision D10. -/
def Obligations.BranchResults : Prop :=
  ∀ (b1 : Byte) (s : State), ∀ e ∈
    [(Instr.bcc b1, Flag.c, false), (.bcs b1, .c, true), (.beq b1, .z, true), (.bmi b1, .n, true), (.bne b1, .z, false),
     (.bpl b1, .n, false), (.bvc b1, .v, false), (.bvs b1, .v, true)],
    ∃ t, exec e.1 s = .next t ∧
      (s.flag e.2.1 = e.2.2 → (t.pc.toNat : Int) = ((s.pc.toNat : Int) + 2 + b1.toInt) % 65536) ∧
      (s.flag e.2.1 ≠ e.2.2 → t.pc.toNat = (s.pc.toNat + 2) % 65536) ∧
      ChangesOnly [] [] s t ∧ SameBytes s t

/-- BIT (46_branch_bit.md section 2). That Z is also cleared is the spec's decision D9. -/
def Obligations.BitResult : Prop :=
  ∀ (m : MemOperand) (s : State),
    let v := s.memRead (s.effectiveAddress m)
    ∃ t, exec (.bit m) s = .next t ∧ (t.flag .z = true ↔ ∀ k, k < 8 → ¬ (s.a.getLsbD k = true ∧ v.getLsbD k = true)) ∧
      t.flag .v = v.getLsbD 6 ∧ t.flag .n = v.getLsbD 7 ∧ ChangesOnly [] [.z, .v, .n] s t ∧ SameBytes s t ∧
      Advanced m.mode s t

/-- JMP (47_jump.md). The missing page-wrap defect is the spec's decision D14. -/
def Obligations.JmpResult : Prop :=
  ∀ (a : Addr) (s : State),
    (∃ t, exec (.jmp (.absolute a)) s = .next t ∧ t.pc = a ∧ ChangesOnly [] [] s t ∧ SameBytes s t) ∧
    ∃ t, exec (.jmp (.indirect a)) s = .next t ∧
      t.pc.toNat = (s.memRead (BitVec.ofNat 16 (a.toNat + 1))).toNat * 256 + (s.memRead a).toNat ∧
      ChangesOnly [] [] s t ∧ SameBytes s t

/-- Rule R209. -/
def Obligations.JsrResult : Prop :=
  ∀ (target : Addr) (s : State), s.Inv →
    let cell (k : Nat) : Addr := BitVec.ofNat 16 (0x0100 + (s.sp.toNat + k) % 256)
    let ret := (s.pc.toNat + 2) % 65536
    ∃ t, exec (.jsr target) s = .next t ∧ (t.memRead (cell 0)).toNat = ret / 256 ∧ (t.memRead (cell 255)).toNat = ret % 256 ∧
      t.sp.toNat = (s.sp.toNat + 254) % 256 ∧ t.pc = target ∧ ChangesOnly [.sp] [] s t ∧
      SameBytesOutside [cell 0, cell 255] s t

/-- RTS (47_jump.md). The plus 1 is the spec's decision D11. -/
def Obligations.RtsResult : Prop :=
  ∀ s : State,
    let cell (k : Nat) : Addr := BitVec.ofNat 16 (0x0100 + (s.sp.toNat + k) % 256)
    ∃ t, exec .rts s = .next t ∧
      t.pc.toNat = ((s.memRead (cell 2)).toNat * 256 + (s.memRead (cell 1)).toNat + 1) % 65536 ∧
      t.sp.toNat = (s.sp.toNat + 2) % 256 ∧ ChangesOnly [.sp] [] s t ∧ SameBytes s t

/-- The source's stack round-trip property, which settles conflict C2. -/
def Obligations.RtsResumesAfterJsr : Prop :=
  ∀ (target : Addr) (s t u : State), s.Inv → exec (.jsr target) s = .next t → u.sp = t.sp → SameBytes t u →
    ∃ v, exec .rts u = .next v ∧ v.pc.toNat = (s.pc.toNat + 3) % 65536 ∧ v.sp = s.sp

/-- Trap entry (60_exceptions.md section 2). The pushed value and the unchanged I are the spec's decision D12, the vector's
composition its decision D3. -/
def Obligations.BrkTakesTheTrap : Prop :=
  ∀ s : State, s.Inv →
    let cell (k : Nat) : Addr := BitVec.ofNat 16 (0x0100 + (s.sp.toNat + k) % 256)
    let ret := (s.pc.toNat + 2) % 65536
    ∃ t, exec .brk s = .next t ∧ (t.memRead (cell 0)).toNat = ret / 256 ∧ (t.memRead (cell 255)).toNat = ret % 256 ∧
      t.memRead (cell 254) = t.p ∧ t.flag .b = true ∧ t.sp.toNat = (s.sp.toNat + 253) % 256 ∧
      t.pc.toNat = (s.memRead 0xFFFF).toNat * 256 + (s.memRead 0xFFFE).toNat ∧ ChangesOnly [.sp] [.b] s t ∧
      SameBytesOutside [cell 0, cell 255, cell 254] s t

/-- Trap return (60_exceptions.md section 2). That nothing is added to the pulled PC is the spec's decision D13. -/
def Obligations.RtiResult : Prop :=
  ∀ s : State,
    let cell (k : Nat) : Addr := BitVec.ofNat 16 (0x0100 + (s.sp.toNat + k) % 256)
    ∃ t, exec .rti s = .next t ∧ t.p = s.memRead (cell 1) ∧
      t.pc.toNat = (s.memRead (cell 3)).toNat * 256 + (s.memRead (cell 2)).toNat ∧
      t.sp.toNat = (s.sp.toNat + 3) % 256 ∧ ChangesOnly [.sp] [.c, .z, .i, .d, .b, .u, .v, .n] s t ∧ SameBytes s t

/-- What trap entry saves, trap return restores (60_exceptions.md section 2). -/
def Obligations.RtiResumesAfterBrk : Prop :=
  ∀ s t u : State, s.Inv → exec .brk s = .next t → u.sp = t.sp → SameBytes t u →
    ∃ v, exec .rti u = .next v ∧ v.pc.toNat = (s.pc.toNat + 2) % 65536 ∧ v.sp = s.sp ∧ v.flag .b = true ∧
      ∀ f, f ≠ .b → v.flag f = s.flag f

/-- Rule R217. -/
def Obligations.PhaPushesA : Prop :=
  ∀ s : State, s.Inv →
    let cell (k : Nat) : Addr := BitVec.ofNat 16 (0x0100 + (s.sp.toNat + k) % 256)
    ∃ t, exec .pha s = .next t ∧ t.memRead (cell 0) = s.a ∧ t.sp.toNat = (s.sp.toNat + 255) % 256 ∧
      ChangesOnly [.sp] [] s t ∧ SameBytesOutside [cell 0] s t ∧ Advanced .implied s t

/-- PHP (48_stack_transfer_flags.md section 1). That no bit is forced is the spec's decision D27. -/
def Obligations.PhpPushesPAsHeld : Prop :=
  ∀ s : State, s.Inv →
    let cell (k : Nat) : Addr := BitVec.ofNat 16 (0x0100 + (s.sp.toNat + k) % 256)
    ∃ t, exec .php s = .next t ∧ t.memRead (cell 0) = s.p ∧ t.sp.toNat = (s.sp.toNat + 255) % 256 ∧
      ChangesOnly [.sp] [] s t ∧ SameBytesOutside [cell 0] s t ∧ Advanced .implied s t

/-- Rule R219. -/
def Obligations.PlaPullsA : Prop :=
  ∀ s : State,
    let cell (k : Nat) : Addr := BitVec.ofNat 16 (0x0100 + (s.sp.toNat + k) % 256)
    ∃ t, exec .pla s = .next t ∧ t.a = s.memRead (cell 1) ∧ ZNof t.a t ∧ t.sp.toNat = (s.sp.toNat + 1) % 256 ∧
      ChangesOnly [.a, .sp] [.z, .n] s t ∧ SameBytes s t ∧ Advanced .implied s t

/-- PLP (48_stack_transfer_flags.md section 1). That no bit is masked is the spec's decision D27. -/
def Obligations.PlpPullsAllOfP : Prop :=
  ∀ s : State,
    let cell (k : Nat) : Addr := BitVec.ofNat 16 (0x0100 + (s.sp.toNat + k) % 256)
    ∃ t, exec .plp s = .next t ∧ t.p = s.memRead (cell 1) ∧ t.sp.toNat = (s.sp.toNat + 1) % 256 ∧
      ChangesOnly [.sp] [.c, .z, .i, .d, .b, .u, .v, .n] s t ∧ SameBytes s t ∧ Advanced .implied s t

/-- Rules R221 to R226. -/
def Obligations.TransferResults : Prop :=
  ∀ s : State,
    (∀ e ∈ [(Instr.tax, Reg.x, s.a), (.tay, .y, s.a), (.txa, .a, s.x), (.tya, .a, s.y), (.tsx, .x, s.sp)],
      ∃ t, exec e.1 s = .next t ∧ t.reg e.2.1 = e.2.2 ∧ ZNof e.2.2 t ∧ ChangesOnly [e.2.1] [.z, .n] s t ∧ SameBytes s t ∧
        Advanced .implied s t) ∧
    ∃ t, exec .txs s = .next t ∧ t.sp = s.x ∧ ChangesOnly [.sp] [] s t ∧ SameBytes s t ∧ Advanced .implied s t

/-- The flag instructions (48_stack_transfer_flags.md section 3). Which flag each mnemonic names the spec supplies from
general knowledge. -/
def Obligations.FlagSetAndClearResults : Prop :=
  ∀ s : State, ∀ e ∈
    [(Instr.sec, Flag.c, true), (.clc, .c, false), (.sei, .i, true), (.cli, .i, false), (.sed, .d, true),
     (.cld, .d, false), (.clv, .v, false)],
    ∃ t, exec e.1 s = .next t ∧ t.flag e.2.1 = e.2.2 ∧ ChangesOnly [] [e.2.1] s t ∧ SameBytes s t ∧ Advanced .implied s t

/-- NOP and STP (48_stack_transfer_flags.md section 4). Which opcodes they are is the spec's decision D2, that the
undocumented ones execute its decision D16. -/
def Obligations.NopAndStpResults : Prop :=
  (∀ (opcode : Byte) (o : NopOperand) (s : State), ∃ t, exec (.nop opcode o) s = .next t ∧ ChangesOnly [] [] s t ∧
      SameBytes s t ∧ Advanced o.mode s t) ∧
    ∀ (opcode : Byte) (s : State), ∃ t, exec (.stp opcode) s = .next t ∧ t.runState = .halted ∧
      ChangesOnly [] [] s { t with runState := s.runState } ∧ SameBytes s t ∧ Advanced .implied s t

/-- The loads (49_load_store_undocumented.md section 1), which are the spec's decision D15. -/
def Obligations.LoadResults : Prop :=
  ∀ (o : ReadOperand) (s : State), ∀ e ∈ [(Instr.lda o, Reg.a), (.ldx o, .x), (.ldy o, .y)],
    ∃ t, exec e.1 s = .next t ∧ t.reg e.2 = s.load o ∧ ZNof (s.load o) t ∧ ChangesOnly [e.2] [.z, .n] s t ∧ SameBytes s t ∧
      Advanced o.mode s t

/-- The stores (49_load_store_undocumented.md section 1), which are the spec's decision D15. -/
def Obligations.StoreResults : Prop :=
  ∀ (m : MemOperand) (s : State), s.Inv → ∀ e ∈ [(Instr.sta m, s.a), (.stx m, s.x), (.sty m, s.y)],
    ∃ t, exec e.1 s = .next t ∧ (∀ b, MirrorGroup (s.effectiveAddress m) b → t.memRead b = e.2) ∧
      ChangesOnly [] [] s t ∧ SameBytesOutside [s.effectiveAddress m] s t ∧ Advanced m.mode s t

/-- The unimplemented-mnemonic fault (60_exceptions.md section 1, the spec's decisions D16 and D17), for SLO, RLA, SRE, RRA,
DCP, ISC, ANC, ALR, ARR, XAA, LAX, SAX, AHX, TAS, SHY, SHX, LAS and AXS. -/
def Obligations.UndocumentedMnemonicsFault : Prop :=
  ∀ (i : Instr) (u : Undocumented) (s : State), i.mnemonic = .undocumented u →
    exec i s = .next { s with runState := .faulted, faultRecord := some ⟨u, s.pc⟩ }
end

