-- ==== Sys2Proof/Laws/Decode.lean ====
section
/-! SUPPORT. The laws of the decode tables, of the byte order of a two-byte operand, and of decoding one instruction. -/

namespace Sys2Proof

/-- The map of rule R93 has 16 rows of 16 entries, so the decode tables have 256 entries. -/
theorem opcodeMap_complete : opcodeMap.length = 16 ∧ ∀ row ∈ opcodeMap, row.length = 16 := by decide

/-- The value of a composed word (rule R7). -/
theorem toNat_wordOf (hi lo : Byte) : (wordOf hi lo).toNat = hi.toNat * 256 + lo.toNat := by
  have h := lo.isLt
  have e : (wordOf hi lo).toNat = hi.toNat <<< 8 ||| lo.toNat := BitVec.toNat_append hi lo
  rw [e, ← Nat.shiftLeft_add_eq_or_of_lt h, Nat.shiftLeft_eq]

theorem toNat_highByte (a : Addr) : (highByte a).toNat = a.toNat / 256 := by
  have h := a.isLt
  have e : (highByte a).toNat = a.toNat >>> 8 % 2 ^ 8 := BitVec.extractLsb'_toNat 8 8 a
  rw [e, Nat.shiftRight_eq_div_pow]
  omega

theorem toNat_lowByte (a : Addr) : (lowByte a).toNat = a.toNat % 256 := BitVec.extractLsb'_toNat 0 8 a

@[simp] theorem highByte_wordOf (hi lo : Byte) : highByte (wordOf hi lo) = hi := by
  apply BitVec.eq_of_toNat_eq
  have := lo.isLt
  rw [toNat_highByte, toNat_wordOf]
  omega

@[simp] theorem lowByte_wordOf (hi lo : Byte) : lowByte (wordOf hi lo) = lo := by
  apply BitVec.eq_of_toNat_eq
  have := lo.isLt
  rw [toNat_lowByte, toNat_wordOf]
  omega

@[simp] theorem wordOf_bytes (a : Addr) : wordOf (highByte a) (lowByte a) = a := by
  apply BitVec.eq_of_toNat_eq
  rw [toNat_wordOf, toNat_highByte, toNat_lowByte]
  omega

/-- The form an opcode's table entry asks for exists, whatever the operand bytes. -/
theorem assemble_isSome (b0 b1 b2 : Byte) : (assemble (decodeMnemonic b0) (decodeMode b0) b0 b1 b2).isSome = true := by
  have h : ∀ b0 : Byte, (assemble (decodeMnemonic b0) (decodeMode b0) 0 0 0).isSome = true := by decide +kernel
  have key : ∀ mn md, (assemble mn md b0 b1 b2).isSome = (assemble mn md 0 0 0).isSome := by
    intro mn md
    cases mn with
    | undocumented u => cases u <;> cases md <;> rfl
    | _ => cases md <;> rfl
  rw [key]
  exact h b0

/-- No opcode is rejected (rules R91, R95). -/
theorem assembleOpcode_ok (b0 b1 b2 : Byte) : ∃ i, assembleOpcode b0 b1 b2 = .ok i := by
  obtain ⟨i, hi⟩ := Option.isSome_iff_exists.1 (assemble_isSome b0 b1 b2)
  exact ⟨i, by simp [assembleOpcode, hi]⟩

/-- An instruction put together from a table entry has that entry's mnemonic and mode. -/
theorem assemble_entry {mn : Mnemonic} {md : Mode} {b0 b1 b2 : Byte} {i : Instr} (h : assemble mn md b0 b1 b2 = some i) :
    i.mnemonic = mn ∧ i.mode = md := by
  cases mn with
  | undocumented u =>
    cases u <;> cases md <;>
      first
      | (cases h; exact ⟨rfl, rfl⟩)
      | exact absurd h (by simp [assemble, memOperand, readOperand, whenMode])
  | _ =>
    cases md <;>
      first
      | (cases h; exact ⟨rfl, rfl⟩)
      | exact absurd h (by simp [assemble, memOperand, readOperand, shiftOperand, jumpOperand, nopOperand, whenMode])

/-- The mode-to-length table gives 0, 1 or 2 (rule R92). -/
theorem operandLength_cases (md : Mode) : operandLength md = 0 ∨ operandLength md = 1 ∨ operandLength md = 2 := by
  cases md <;> decide

/-- An instruction that is put together is the one assembled. -/
theorem assemble_of_ok {b0 b1 b2 : Byte} {i : Instr} (h : assembleOpcode b0 b1 b2 = .ok i) :
    assemble (decodeMnemonic b0) (decodeMode b0) b0 b1 b2 = some i := by
  unfold assembleOpcode at h
  split at h <;> simp_all

/-- Everything a decoding can be: the bytes are an opcode, the operand bytes its mode takes, and the rest (rule R90). -/
theorem decode_cases {bytes rest : List Byte} {i : Instr} (h : decode bytes = .ok (i, rest)) :
    ∃ b0 b1 b2, assemble (decodeMnemonic b0) (decodeMode b0) b0 b1 b2 = some i ∧
      bytes = b0 :: ([b1, b2].take (operandLength (decodeMode b0)) ++ rest) := by
  have of_map : ∀ {b0 b1 b2 : Byte} {r : List Byte}, (assembleOpcode b0 b1 b2).map (·, r) = .ok (i, rest) →
      assemble (decodeMnemonic b0) (decodeMode b0) b0 b1 b2 = some i ∧ r = rest := by
    intro b0 b1 b2 r hm
    obtain ⟨j, hj⟩ := assembleOpcode_ok b0 b1 b2
    rw [hj] at hm
    obtain ⟨rfl, rfl⟩ : j = i ∧ r = rest := by simpa [Except.map] using hm
    exact ⟨assemble_of_ok hj, rfl⟩
  cases bytes with
  | nil => nomatch h
  | cons b0 r =>
    simp only [decode] at h
    split at h
    · rename_i hl
      obtain ⟨ha, rfl⟩ := of_map h
      exact ⟨b0, 0, 0, ha, by simp [hl]⟩
    · rename_i b1 r hl
      obtain ⟨ha, rfl⟩ := of_map h
      exact ⟨b0, b1, 0, ha, by simp [hl]⟩
    · rename_i b1 b2 r hl
      obtain ⟨ha, rfl⟩ := of_map h
      exact ⟨b0, b1, b2, ha, by simp [hl]⟩
    · nomatch h

end Sys2Proof
end

