-- ==== Sys2Proof/Laws/State.lean ====
section
/-! SUPPORT. One lemma per field per update: what each named operation over the state does to each field. -/

namespace Sys2Proof.Machine.State

variable (s : State)

@[simp] theorem setP_a (v : Byte) : (s.setP v).a = s.a := rfl
@[simp] theorem setP_x (v : Byte) : (s.setP v).x = s.x := rfl
@[simp] theorem setP_y (v : Byte) : (s.setP v).y = s.y := rfl
@[simp] theorem setP_sp (v : Byte) : (s.setP v).sp = s.sp := rfl
@[simp] theorem setP_p (v : Byte) : (s.setP v).p = v := rfl
@[simp] theorem setP_pc (v : Byte) : (s.setP v).pc = s.pc := rfl
@[simp] theorem setP_runState (v : Byte) : (s.setP v).runState = s.runState := rfl
@[simp] theorem setP_faultRecord (v : Byte) : (s.setP v).faultRecord = s.faultRecord := rfl
@[simp] theorem setP_mem (v : Byte) : (s.setP v).mem = s.mem := rfl

@[simp] theorem setFlag_a (f : Flag) (v : Bool) : (s.setFlag f v).a = s.a := rfl
@[simp] theorem setFlag_x (f : Flag) (v : Bool) : (s.setFlag f v).x = s.x := rfl
@[simp] theorem setFlag_y (f : Flag) (v : Bool) : (s.setFlag f v).y = s.y := rfl
@[simp] theorem setFlag_sp (f : Flag) (v : Bool) : (s.setFlag f v).sp = s.sp := rfl
@[simp] theorem setFlag_p (f : Flag) (v : Bool) : (s.setFlag f v).p = withFlag s.p f v := rfl
@[simp] theorem setFlag_pc (f : Flag) (v : Bool) : (s.setFlag f v).pc = s.pc := rfl
@[simp] theorem setFlag_runState (f : Flag) (v : Bool) : (s.setFlag f v).runState = s.runState := rfl
@[simp] theorem setFlag_faultRecord (f : Flag) (v : Bool) : (s.setFlag f v).faultRecord = s.faultRecord := rfl
@[simp] theorem setFlag_mem (f : Flag) (v : Bool) : (s.setFlag f v).mem = s.mem := rfl

@[simp] theorem setX_a (v : Byte) : (s.setX v).a = s.a := rfl
@[simp] theorem setX_x (v : Byte) : (s.setX v).x = v := rfl
@[simp] theorem setX_y (v : Byte) : (s.setX v).y = s.y := rfl
@[simp] theorem setX_sp (v : Byte) : (s.setX v).sp = s.sp := rfl
@[simp] theorem setX_p (v : Byte) : (s.setX v).p = s.p := rfl
@[simp] theorem setX_pc (v : Byte) : (s.setX v).pc = s.pc := rfl
@[simp] theorem setX_runState (v : Byte) : (s.setX v).runState = s.runState := rfl
@[simp] theorem setX_faultRecord (v : Byte) : (s.setX v).faultRecord = s.faultRecord := rfl
@[simp] theorem setX_mem (v : Byte) : (s.setX v).mem = s.mem := rfl

@[simp] theorem setY_a (v : Byte) : (s.setY v).a = s.a := rfl
@[simp] theorem setY_x (v : Byte) : (s.setY v).x = s.x := rfl
@[simp] theorem setY_y (v : Byte) : (s.setY v).y = v := rfl
@[simp] theorem setY_sp (v : Byte) : (s.setY v).sp = s.sp := rfl
@[simp] theorem setY_p (v : Byte) : (s.setY v).p = s.p := rfl
@[simp] theorem setY_pc (v : Byte) : (s.setY v).pc = s.pc := rfl
@[simp] theorem setY_runState (v : Byte) : (s.setY v).runState = s.runState := rfl
@[simp] theorem setY_faultRecord (v : Byte) : (s.setY v).faultRecord = s.faultRecord := rfl
@[simp] theorem setY_mem (v : Byte) : (s.setY v).mem = s.mem := rfl

@[simp] theorem setSP_a (v : Byte) : (s.setSP v).a = s.a := rfl
@[simp] theorem setSP_x (v : Byte) : (s.setSP v).x = s.x := rfl
@[simp] theorem setSP_y (v : Byte) : (s.setSP v).y = s.y := rfl
@[simp] theorem setSP_sp (v : Byte) : (s.setSP v).sp = v := rfl
@[simp] theorem setSP_p (v : Byte) : (s.setSP v).p = s.p := rfl
@[simp] theorem setSP_pc (v : Byte) : (s.setSP v).pc = s.pc := rfl
@[simp] theorem setSP_runState (v : Byte) : (s.setSP v).runState = s.runState := rfl
@[simp] theorem setSP_faultRecord (v : Byte) : (s.setSP v).faultRecord = s.faultRecord := rfl
@[simp] theorem setSP_mem (v : Byte) : (s.setSP v).mem = s.mem := rfl

@[simp] theorem setPC_a (a : Addr) : (s.setPC a).a = s.a := rfl
@[simp] theorem setPC_x (a : Addr) : (s.setPC a).x = s.x := rfl
@[simp] theorem setPC_y (a : Addr) : (s.setPC a).y = s.y := rfl
@[simp] theorem setPC_sp (a : Addr) : (s.setPC a).sp = s.sp := rfl
@[simp] theorem setPC_p (a : Addr) : (s.setPC a).p = s.p := rfl
@[simp] theorem setPC_pc (a : Addr) : (s.setPC a).pc = a := rfl
@[simp] theorem setPC_runState (a : Addr) : (s.setPC a).runState = s.runState := rfl
@[simp] theorem setPC_faultRecord (a : Addr) : (s.setPC a).faultRecord = s.faultRecord := rfl
@[simp] theorem setPC_mem (a : Addr) : (s.setPC a).mem = s.mem := rfl

@[simp] theorem advance_a (md : Mode) : (s.advance md).a = s.a := rfl
@[simp] theorem advance_x (md : Mode) : (s.advance md).x = s.x := rfl
@[simp] theorem advance_y (md : Mode) : (s.advance md).y = s.y := rfl
@[simp] theorem advance_sp (md : Mode) : (s.advance md).sp = s.sp := rfl
@[simp] theorem advance_p (md : Mode) : (s.advance md).p = s.p := rfl
@[simp] theorem advance_pc (md : Mode) : (s.advance md).pc = s.pc + 1 + BitVec.ofNat 16 (operandLength md) := rfl
@[simp] theorem advance_runState (md : Mode) : (s.advance md).runState = s.runState := rfl
@[simp] theorem advance_faultRecord (md : Mode) : (s.advance md).faultRecord = s.faultRecord := rfl
@[simp] theorem advance_mem (md : Mode) : (s.advance md).mem = s.mem := rfl

@[simp] theorem setRunState_a (r : RunState) : (s.setRunState r).a = s.a := rfl
@[simp] theorem setRunState_x (r : RunState) : (s.setRunState r).x = s.x := rfl
@[simp] theorem setRunState_y (r : RunState) : (s.setRunState r).y = s.y := rfl
@[simp] theorem setRunState_sp (r : RunState) : (s.setRunState r).sp = s.sp := rfl
@[simp] theorem setRunState_p (r : RunState) : (s.setRunState r).p = s.p := rfl
@[simp] theorem setRunState_pc (r : RunState) : (s.setRunState r).pc = s.pc := rfl
@[simp] theorem setRunState_runState (r : RunState) : (s.setRunState r).runState = r := rfl
@[simp] theorem setRunState_faultRecord (r : RunState) : (s.setRunState r).faultRecord = s.faultRecord := rfl
@[simp] theorem setRunState_mem (r : RunState) : (s.setRunState r).mem = s.mem := rfl

@[simp] theorem memWrite_a (a : Addr) (v : Byte) : (s.memWrite a v).a = s.a := rfl
@[simp] theorem memWrite_x (a : Addr) (v : Byte) : (s.memWrite a v).x = s.x := rfl
@[simp] theorem memWrite_y (a : Addr) (v : Byte) : (s.memWrite a v).y = s.y := rfl
@[simp] theorem memWrite_sp (a : Addr) (v : Byte) : (s.memWrite a v).sp = s.sp := rfl
@[simp] theorem memWrite_p (a : Addr) (v : Byte) : (s.memWrite a v).p = s.p := rfl
@[simp] theorem memWrite_pc (a : Addr) (v : Byte) : (s.memWrite a v).pc = s.pc := rfl
@[simp] theorem memWrite_runState (a : Addr) (v : Byte) : (s.memWrite a v).runState = s.runState := rfl
@[simp] theorem memWrite_faultRecord (a : Addr) (v : Byte) : (s.memWrite a v).faultRecord = s.faultRecord := rfl
@[simp] theorem memWrite_mem (a : Addr) (v : Byte) : (s.memWrite a v).mem = s.mem.write (cellOf a) v := rfl

@[simp] theorem setZN_a (v : Byte) : (s.setZN v).a = s.a := rfl
@[simp] theorem setZN_x (v : Byte) : (s.setZN v).x = s.x := rfl
@[simp] theorem setZN_y (v : Byte) : (s.setZN v).y = s.y := rfl
@[simp] theorem setZN_sp (v : Byte) : (s.setZN v).sp = s.sp := rfl
@[simp] theorem setZN_p (v : Byte) : (s.setZN v).p = withFlag (withFlag s.p .z (v == 0)) .n (v.getLsbD 7) := rfl
@[simp] theorem setZN_pc (v : Byte) : (s.setZN v).pc = s.pc := rfl
@[simp] theorem setZN_runState (v : Byte) : (s.setZN v).runState = s.runState := rfl
@[simp] theorem setZN_faultRecord (v : Byte) : (s.setZN v).faultRecord = s.faultRecord := rfl
@[simp] theorem setZN_mem (v : Byte) : (s.setZN v).mem = s.mem := rfl

@[simp] theorem writeA_a (v : Byte) : (s.writeA v).a = v := rfl
@[simp] theorem writeA_x (v : Byte) : (s.writeA v).x = s.x := rfl
@[simp] theorem writeA_y (v : Byte) : (s.writeA v).y = s.y := rfl
@[simp] theorem writeA_sp (v : Byte) : (s.writeA v).sp = s.sp := rfl
@[simp] theorem writeA_p (v : Byte) : (s.writeA v).p = withFlag (withFlag s.p .z (v == 0)) .n (v.getLsbD 7) := rfl
@[simp] theorem writeA_pc (v : Byte) : (s.writeA v).pc = s.pc := rfl
@[simp] theorem writeA_runState (v : Byte) : (s.writeA v).runState = s.runState := rfl
@[simp] theorem writeA_faultRecord (v : Byte) : (s.writeA v).faultRecord = s.faultRecord := rfl
@[simp] theorem writeA_mem (v : Byte) : (s.writeA v).mem = s.mem := rfl

@[simp] theorem compare_a (l r : Byte) : (s.compare l r).a = s.a := rfl
@[simp] theorem compare_x (l r : Byte) : (s.compare l r).x = s.x := rfl
@[simp] theorem compare_y (l r : Byte) : (s.compare l r).y = s.y := rfl
@[simp] theorem compare_sp (l r : Byte) : (s.compare l r).sp = s.sp := rfl
@[simp] theorem compare_pc (l r : Byte) : (s.compare l r).pc = s.pc := rfl
@[simp] theorem compare_runState (l r : Byte) : (s.compare l r).runState = s.runState := rfl
@[simp] theorem compare_faultRecord (l r : Byte) : (s.compare l r).faultRecord = s.faultRecord := rfl
@[simp] theorem compare_mem (l r : Byte) : (s.compare l r).mem = s.mem := rfl

@[simp] theorem testBits_a (m : Byte) : (s.testBits m).a = s.a := rfl
@[simp] theorem testBits_x (m : Byte) : (s.testBits m).x = s.x := rfl
@[simp] theorem testBits_y (m : Byte) : (s.testBits m).y = s.y := rfl
@[simp] theorem testBits_sp (m : Byte) : (s.testBits m).sp = s.sp := rfl
@[simp] theorem testBits_pc (m : Byte) : (s.testBits m).pc = s.pc := rfl
@[simp] theorem testBits_runState (m : Byte) : (s.testBits m).runState = s.runState := rfl
@[simp] theorem testBits_faultRecord (m : Byte) : (s.testBits m).faultRecord = s.faultRecord := rfl
@[simp] theorem testBits_mem (m : Byte) : (s.testBits m).mem = s.mem := rfl

@[simp] theorem push_a (v : Byte) : (s.push v).a = s.a := rfl
@[simp] theorem push_x (v : Byte) : (s.push v).x = s.x := rfl
@[simp] theorem push_y (v : Byte) : (s.push v).y = s.y := rfl
@[simp] theorem push_sp (v : Byte) : (s.push v).sp = s.sp - 1 := rfl
@[simp] theorem push_p (v : Byte) : (s.push v).p = s.p := rfl
@[simp] theorem push_pc (v : Byte) : (s.push v).pc = s.pc := rfl
@[simp] theorem push_runState (v : Byte) : (s.push v).runState = s.runState := rfl
@[simp] theorem push_faultRecord (v : Byte) : (s.push v).faultRecord = s.faultRecord := rfl
@[simp] theorem push_mem (v : Byte) : (s.push v).mem = s.mem.write (cellOf (stackAddr s.sp)) v := rfl

@[simp] theorem pull_a : (s.pull).a = s.a := rfl
@[simp] theorem pull_x : (s.pull).x = s.x := rfl
@[simp] theorem pull_y : (s.pull).y = s.y := rfl
@[simp] theorem pull_sp : (s.pull).sp = s.sp + 1 := rfl
@[simp] theorem pull_p : (s.pull).p = s.p := rfl
@[simp] theorem pull_pc : (s.pull).pc = s.pc := rfl
@[simp] theorem pull_runState : (s.pull).runState = s.runState := rfl
@[simp] theorem pull_faultRecord : (s.pull).faultRecord = s.faultRecord := rfl
@[simp] theorem pull_mem : (s.pull).mem = s.mem := rfl

@[simp] theorem pushWord_a (v : Addr) : (s.pushWord v).a = s.a := rfl
@[simp] theorem pushWord_x (v : Addr) : (s.pushWord v).x = s.x := rfl
@[simp] theorem pushWord_y (v : Addr) : (s.pushWord v).y = s.y := rfl
@[simp] theorem pushWord_sp (v : Addr) : (s.pushWord v).sp = s.sp - 1 - 1 := rfl
@[simp] theorem pushWord_p (v : Addr) : (s.pushWord v).p = s.p := rfl
@[simp] theorem pushWord_pc (v : Addr) : (s.pushWord v).pc = s.pc := rfl
@[simp] theorem pushWord_runState (v : Addr) : (s.pushWord v).runState = s.runState := rfl
@[simp] theorem pushWord_faultRecord (v : Addr) : (s.pushWord v).faultRecord = s.faultRecord := rfl

@[simp] theorem enterTrap_a : (s.enterTrap).a = s.a := rfl
@[simp] theorem enterTrap_x : (s.enterTrap).x = s.x := rfl
@[simp] theorem enterTrap_y : (s.enterTrap).y = s.y := rfl
@[simp] theorem enterTrap_sp : (s.enterTrap).sp = s.sp - 1 - 1 - 1 := rfl
@[simp] theorem enterTrap_p : (s.enterTrap).p = withFlag s.p .b true := rfl
@[simp] theorem enterTrap_runState : (s.enterTrap).runState = s.runState := rfl
@[simp] theorem enterTrap_faultRecord : (s.enterTrap).faultRecord = s.faultRecord := rfl

@[simp] theorem returnFromTrap_a : (s.returnFromTrap).a = s.a := rfl
@[simp] theorem returnFromTrap_x : (s.returnFromTrap).x = s.x := rfl
@[simp] theorem returnFromTrap_y : (s.returnFromTrap).y = s.y := rfl
@[simp] theorem returnFromTrap_sp : (s.returnFromTrap).sp = s.sp + 1 + 1 + 1 := rfl
@[simp] theorem returnFromTrap_p : (s.returnFromTrap).p = s.pulled := rfl
@[simp] theorem returnFromTrap_pc : (s.returnFromTrap).pc = wordOf (s.memRead (stackAddr (s.sp + 1 + 1 + 1))) (s.memRead (stackAddr (s.sp + 1 + 1))) := rfl
@[simp] theorem returnFromTrap_runState : (s.returnFromTrap).runState = s.runState := rfl
@[simp] theorem returnFromTrap_faultRecord : (s.returnFromTrap).faultRecord = s.faultRecord := rfl
@[simp] theorem returnFromTrap_mem : (s.returnFromTrap).mem = s.mem := rfl

@[simp] theorem raiseUnimplemented_a (mn : Undocumented) : (s.raiseUnimplemented mn).a = s.a := rfl
@[simp] theorem raiseUnimplemented_x (mn : Undocumented) : (s.raiseUnimplemented mn).x = s.x := rfl
@[simp] theorem raiseUnimplemented_y (mn : Undocumented) : (s.raiseUnimplemented mn).y = s.y := rfl
@[simp] theorem raiseUnimplemented_sp (mn : Undocumented) : (s.raiseUnimplemented mn).sp = s.sp := rfl
@[simp] theorem raiseUnimplemented_p (mn : Undocumented) : (s.raiseUnimplemented mn).p = s.p := rfl
@[simp] theorem raiseUnimplemented_pc (mn : Undocumented) : (s.raiseUnimplemented mn).pc = s.pc := rfl
@[simp] theorem raiseUnimplemented_runState (mn : Undocumented) : (s.raiseUnimplemented mn).runState = .faulted := rfl
@[simp] theorem raiseUnimplemented_faultRecord (mn : Undocumented) : (s.raiseUnimplemented mn).faultRecord = some ⟨mn, s.pc⟩ := rfl
@[simp] theorem raiseUnimplemented_mem (mn : Undocumented) : (s.raiseUnimplemented mn).mem = s.mem := rfl

/-! A flag is a bit of P, so whatever keeps P keeps every flag; memory is read from the memory field alone. -/

@[simp] theorem setX_flag (v : Byte) (g : Flag) : (s.setX v).flag g = s.flag g := rfl
@[simp] theorem setY_flag (v : Byte) (g : Flag) : (s.setY v).flag g = s.flag g := rfl
@[simp] theorem setSP_flag (v : Byte) (g : Flag) : (s.setSP v).flag g = s.flag g := rfl
@[simp] theorem setPC_flag (a : Addr) (g : Flag) : (s.setPC a).flag g = s.flag g := rfl
@[simp] theorem advance_flag (md : Mode) (g : Flag) : (s.advance md).flag g = s.flag g := rfl
@[simp] theorem setRunState_flag (r : RunState) (g : Flag) : (s.setRunState r).flag g = s.flag g := rfl
@[simp] theorem memWrite_flag (a : Addr) (v : Byte) (g : Flag) : (s.memWrite a v).flag g = s.flag g := rfl
@[simp] theorem push_flag (v : Byte) (g : Flag) : (s.push v).flag g = s.flag g := rfl
@[simp] theorem pull_flag (g : Flag) : (s.pull).flag g = s.flag g := rfl
@[simp] theorem pushWord_flag (v : Addr) (g : Flag) : (s.pushWord v).flag g = s.flag g := rfl
@[simp] theorem raiseUnimplemented_flag (mn : Undocumented) (g : Flag) : (s.raiseUnimplemented mn).flag g = s.flag g := rfl

@[simp] theorem setP_memRead (v : Byte) (w : Addr) : (s.setP v).memRead w = s.memRead w := rfl
@[simp] theorem setFlag_memRead (f : Flag) (v : Bool) (w : Addr) : (s.setFlag f v).memRead w = s.memRead w := rfl
@[simp] theorem setX_memRead (v : Byte) (w : Addr) : (s.setX v).memRead w = s.memRead w := rfl
@[simp] theorem setY_memRead (v : Byte) (w : Addr) : (s.setY v).memRead w = s.memRead w := rfl
@[simp] theorem setSP_memRead (v : Byte) (w : Addr) : (s.setSP v).memRead w = s.memRead w := rfl
@[simp] theorem setPC_memRead (a : Addr) (w : Addr) : (s.setPC a).memRead w = s.memRead w := rfl
@[simp] theorem advance_memRead (md : Mode) (w : Addr) : (s.advance md).memRead w = s.memRead w := rfl
@[simp] theorem setRunState_memRead (r : RunState) (w : Addr) : (s.setRunState r).memRead w = s.memRead w := rfl
@[simp] theorem setZN_memRead (v : Byte) (w : Addr) : (s.setZN v).memRead w = s.memRead w := rfl
@[simp] theorem writeA_memRead (v : Byte) (w : Addr) : (s.writeA v).memRead w = s.memRead w := rfl
@[simp] theorem compare_memRead (l r : Byte) (w : Addr) : (s.compare l r).memRead w = s.memRead w := rfl
@[simp] theorem testBits_memRead (m : Byte) (w : Addr) : (s.testBits m).memRead w = s.memRead w := rfl
@[simp] theorem pull_memRead (w : Addr) : (s.pull).memRead w = s.memRead w := rfl
@[simp] theorem returnFromTrap_memRead (w : Addr) : (s.returnFromTrap).memRead w = s.memRead w := rfl
@[simp] theorem raiseUnimplemented_memRead (mn : Undocumented) (w : Addr) : (s.raiseUnimplemented mn).memRead w = s.memRead w := rfl

end Sys2Proof.Machine.State
end

