-- ==== Sys2Proof/Laws/Flags.lean ====
section
/-! SUPPORT. The laws of the status register: writing one flag writes that flag and keeps the seven others, and what each shared
flag computation does to each flag. -/

namespace Sys2Proof.Machine

/-- Writing a flag writes that flag alone. -/
@[simp] theorem flagOf_withFlag (p : Byte) (f g : Flag) (v : Bool) :
    flagOf (withFlag p f v) g = if g = f then v else flagOf p g := by
  revert p
  cases f <;> cases g <;> cases v <;> decide +kernel

/-- A status byte is the sum of its flags. -/
theorem eq_of_flags (p q : Byte) (h : ∀ f, flagOf p f = flagOf q f) : p = q := by
  have h0 := h .c
  have h1 := h .z
  have h2 := h .i
  have h3 := h .d
  have h4 := h .b
  have h5 := h .u
  have h6 := h .v
  have h7 := h .n
  apply BitVec.eq_of_getLsbD_eq
  intro i hi
  match i, hi with
  | 0, _ => exact h0
  | 1, _ => exact h1
  | 2, _ => exact h2
  | 3, _ => exact h3
  | 4, _ => exact h4
  | 5, _ => exact h5
  | 6, _ => exact h6
  | 7, _ => exact h7

namespace State

variable (s : State)

@[simp] theorem setP_flag (v : Byte) (g : Flag) : (s.setP v).flag g = flagOf v g := rfl

@[simp] theorem setFlag_flag (f : Flag) (v : Bool) (g : Flag) :
    (s.setFlag f v).flag g = if g = f then v else s.flag g := flagOf_withFlag _ _ _ _

@[simp] theorem setZN_flag (v : Byte) (g : Flag) :
    (s.setZN v).flag g = if g = .n then v.getLsbD 7 else if g = .z then v == 0 else s.flag g := by
  simp [setZN]

@[simp] theorem writeA_flag (v : Byte) (g : Flag) :
    (s.writeA v).flag g = if g = .n then v.getLsbD 7 else if g = .z then v == 0 else s.flag g := by
  simp [writeA, State.flag]

@[simp] theorem compare_flag (l r : Byte) (g : Flag) :
    (s.compare l r).flag g =
      if g = .z then l == r
      else if g = .n then decide (l.toNat < r.toNat)
      else if g = .c then decide (r.toNat < l.toNat) else s.flag g := by
  simp [State.compare]

@[simp] theorem testBits_flag (m : Byte) (g : Flag) :
    (s.testBits m).flag g =
      if g = .n then m.getLsbD 7
      else if g = .v then m.getLsbD 6
      else if g = .z then (s.a &&& m) == 0 else s.flag g := by
  simp [testBits]

@[simp] theorem enterTrap_flag (g : Flag) : s.enterTrap.flag g = if g = .b then true else s.flag g :=
  flagOf_withFlag _ _ _ _

@[simp] theorem returnFromTrap_flag (g : Flag) : s.returnFromTrap.flag g = flagOf s.pulled g := rfl

end State

end Sys2Proof.Machine
end

