-- ==== Sys2Proof/Laws/Memory.lean ====
section
/-! SUPPORT. The laws of memory: a write keeps the canonical form, a read gives the last byte written to its cell, and a write
leaves every other cell alone. -/

namespace Sys2Proof.Machine

/-- The three ranges of cells of the store (rule R61). -/
theorem isCell_iff (k : Nat) :
    isCell k = true ↔ (k < 2048 ∨ 0x2000 ≤ k ∧ k < 0x2008) ∨ 0x4000 ≤ k ∧ k < 65536 := by
  simp only [isCell, Bool.or_eq_true, Bool.and_eq_true, decide_eq_true_eq]
  rfl

/-- The three ranges of the mirroring map (rule R61). -/
theorem cellOf_cases (a : Addr) :
    a.toNat < 0x2000 ∧ cellOf a = a.toNat % 2048 ∨
      (0x2000 ≤ a.toNat ∧ a.toNat < 0x4000) ∧ cellOf a = 0x2000 + a.toNat % 8 ∨ 0x4000 ≤ a.toNat ∧ cellOf a = a.toNat := by
  unfold cellOf Config.ramEnd Config.ramSize Config.ppuEnd Config.ppuSize
  split <;> [skip; split] <;> omega

/-- A logical address names a cell of the store. -/
theorem isCell_cellOf (a : Addr) : isCell (cellOf a) = true := by
  have h := a.isLt
  rw [isCell_iff]
  rcases cellOf_cases a with h | h | h <;> omega

theorem Memory.read_write_same (m : Memory) (k : Nat) (v : Byte) (h : m.wf) : (m.write k v).read k = v := by
  obtain ⟨hp, hc⟩ := h
  induction m with
  | nil =>
    by_cases hv : v = Config.emptyByte <;> simp [Memory.write, Memory.read, hv]
  | cons c rest ih =>
    obtain ⟨k', v'⟩ := c
    have hp' := List.pairwise_cons.1 hp
    have below : ∀ (l : Memory), (∀ d ∈ l, k < d.1) → Memory.read l k = Config.emptyByte := by
      intro l hl
      induction l with
      | nil => rfl
      | cons d l ihl =>
        have := hl d (by simp)
        simp only [Memory.read]
        rw [if_neg (by omega)]
        exact ihl fun e he => hl e (by simp [he])
    simp only [Memory.write]
    split
    · split
      · rename_i hlt hv
        rw [hv]
        refine below _ fun d hd => ?_
        rcases List.mem_cons.1 hd with rfl | hd
        · exact hlt
        · exact Nat.lt_trans hlt (hp'.1 d hd)
      · simp [Memory.read]
    · split
      · split
        · rename_i heq hv
          rw [hv]
          exact below _ fun d hd => heq ▸ hp'.1 d hd
        · simp [Memory.read]
      · rename_i hne
        simp only [Memory.read, if_neg hne]
        exact ih hp'.2 fun d hd => hc d (by simp [hd])

theorem Memory.read_write_other (m : Memory) (k j : Nat) (v : Byte) (h : j ≠ k) : (m.write k v).read j = m.read j := by
  induction m with
  | nil => by_cases hv : v = Config.emptyByte <;> simp [Memory.write, Memory.read, hv, h]
  | cons c rest ih =>
    obtain ⟨k', v'⟩ := c
    simp only [Memory.write]
    split
    · split <;> simp [Memory.read, h]
    · split
      · rename_i heq
        subst heq
        split <;> simp [Memory.read, h]
      · simp [Memory.read, ih]

/-- Every cell of a written memory is the written one or one of before. -/
theorem Memory.mem_write {m : Memory} {k : Nat} {v : Byte} {c : Host.Cell} (h : c ∈ m.write k v) :
    (c = (k, v) ∧ v ≠ Config.emptyByte) ∨ c ∈ m := by
  induction m with
  | nil =>
    by_cases hv : v = Config.emptyByte
    · simp [Memory.write, hv] at h
    · simp only [Memory.write, if_neg hv, List.mem_singleton] at h
      exact .inl ⟨h, hv⟩
  | cons d rest ih =>
    obtain ⟨k', v'⟩ := d
    simp only [Memory.write] at h
    split at h
    · split at h
      · exact .inr h
      · rename_i hv
        rcases List.mem_cons.1 h with h | h
        · exact .inl ⟨h, hv⟩
        · exact .inr h
    · split at h
      · split at h
        · exact .inr (by simp [h])
        · rename_i hv
          rcases List.mem_cons.1 h with h | h
          · exact .inl ⟨h, hv⟩
          · exact .inr (by simp [h])
      · rcases List.mem_cons.1 h with h | h
        · exact .inr (by simp [h])
        · rcases ih h with h | h
          · exact .inl h
          · exact .inr (by simp [h])

/-- A write keeps the canonical form. -/
theorem Memory.write_wf {m : Memory} {k : Nat} {v : Byte} (hk : isCell k = true) (h : m.wf) : (m.write k v).wf := by
  refine ⟨?_, fun c hc => ?_⟩
  · obtain ⟨hp, hc⟩ := h
    induction m with
    | nil => by_cases hv : v = Config.emptyByte <;> simp [Memory.write, hv]
    | cons d rest ih =>
      obtain ⟨k', v'⟩ := d
      have hp' := List.pairwise_cons.1 hp
      simp only [Memory.write]
      split
      · rename_i hlt
        split
        · exact hp
        · refine List.pairwise_cons.2 ⟨fun e he => ?_, hp⟩
          rcases List.mem_cons.1 he with rfl | he
          · exact hlt
          · exact Nat.lt_trans hlt (hp'.1 e he)
      · split
        · rename_i heq
          subst heq
          split
          · exact hp'.2
          · exact List.pairwise_cons.2 ⟨hp'.1, hp'.2⟩
        · refine List.pairwise_cons.2 ⟨fun e he => ?_, ih hp'.2 fun e he => hc e (by simp [he])⟩
          rcases Memory.mem_write he with ⟨rfl, -⟩ | he
          · simp only
            omega
          · exact hp'.1 e he
  · rcases Memory.mem_write hc with ⟨rfl, hv⟩ | hc
    · exact ⟨hk, hv⟩
    · exact h.2 c hc

/-- What an address reads after a write to a memory in canonical form. -/
theorem State.memRead_memWrite (s : State) (a b : Addr) (v : Byte) (h : s.mem.wf) :
    (s.memWrite a v).memRead b = if cellOf b = cellOf a then v else s.memRead b := by
  simp only [State.memRead, State.memWrite_mem]
  split
  · rename_i heq
    rw [heq]
    exact Memory.read_write_same _ _ _ h
  · exact Memory.read_write_other _ _ _ _ ‹_›

/-- A write leaves every other cell alone, whatever the memory. -/
theorem State.memRead_memWrite_other (s : State) (a b : Addr) (v : Byte) (h : cellOf b ≠ cellOf a) :
    (s.memWrite a v).memRead b = s.memRead b :=
  Memory.read_write_other _ _ _ _ h

/-- What an address reads after a push (rule R45). -/
theorem State.push_memRead (s : State) (v : Byte) (b : Addr) :
    (s.push v).memRead b = (s.memWrite (stackAddr s.sp) v).memRead b := rfl

/-- A memory write keeps the canonical form. -/
theorem State.memWrite_wf (s : State) (a : Addr) (v : Byte) (h : s.mem.wf) : (s.memWrite a v).mem.wf :=
  Memory.write_wf (isCell_cellOf a) h

/-- A push keeps the canonical form. -/
theorem State.push_wf (s : State) (v : Byte) (h : s.mem.wf) : (s.push v).mem.wf := s.memWrite_wf _ _ h

/-- A two-byte push keeps the canonical form. -/
theorem State.pushWord_wf (s : State) (v : Addr) (h : s.mem.wf) : (s.pushWord v).mem.wf :=
  State.push_wf _ _ (s.push_wf _ h)

/-- Trap entry keeps the canonical form. -/
theorem State.enterTrap_wf (s : State) (h : s.mem.wf) : s.enterTrap.mem.wf :=
  State.push_wf _ _ (State.pushWord_wf _ _ h)

/-- The memory at construction is in canonical form. -/
theorem Memory.reset_wf : State.reset.mem.wf := by decide

end Sys2Proof.Machine
end

