-- ==== Sys2Proof/Laws/Meanings.lean ====
section
/-! SUPPORT. What each shared operation of the instruction families does to each part of the state, once. -/

namespace Sys2Proof.Machine.State

variable (s : State)

/-! The tail of ADC and SBC writes A, C, V, Z and N. -/

@[simp] theorem addIntoA_a (x y : Byte) : (s.addIntoA x y).a =
    if s.flag .d then bin2bcd (sumByte x y (s.flag .c)) else sumByte x y (s.flag .c) := rfl
@[simp] theorem addIntoA_x (x y : Byte) : (s.addIntoA x y).x = s.x := rfl
@[simp] theorem addIntoA_y (x y : Byte) : (s.addIntoA x y).y = s.y := rfl
@[simp] theorem addIntoA_sp (x y : Byte) : (s.addIntoA x y).sp = s.sp := rfl
@[simp] theorem addIntoA_pc (x y : Byte) : (s.addIntoA x y).pc = s.pc := rfl
@[simp] theorem addIntoA_runState (x y : Byte) : (s.addIntoA x y).runState = s.runState := rfl
@[simp] theorem addIntoA_faultRecord (x y : Byte) : (s.addIntoA x y).faultRecord = s.faultRecord := rfl
@[simp] theorem addIntoA_mem (x y : Byte) : (s.addIntoA x y).mem = s.mem := rfl

@[simp] theorem addIntoA_flag (x y : Byte) (g : Flag) : (s.addIntoA x y).flag g =
    if g = .n then (s.addIntoA x y).a.getLsbD 7
    else if g = .z then (s.addIntoA x y).a == 0
    else if g = .v then sumOverflow x y (s.flag .c)
    else if g = .c then sumCarry x y (s.flag .c)
    else s.flag g := by
  rw [addIntoA_a]
  simp only [addIntoA, writeA_flag, setFlag_flag]

/-! The accumulator form of a shift writes A, C, Z and N; the memory form writes C and one byte. -/

@[simp] theorem shiftStore_x (o : ShiftOperand) (v : Byte) (c : Bool) : (s.shiftStore o v c).x = s.x := by cases o <;> rfl
@[simp] theorem shiftStore_y (o : ShiftOperand) (v : Byte) (c : Bool) : (s.shiftStore o v c).y = s.y := by cases o <;> rfl
@[simp] theorem shiftStore_sp (o : ShiftOperand) (v : Byte) (c : Bool) : (s.shiftStore o v c).sp = s.sp := by cases o <;> rfl
@[simp] theorem shiftStore_pc (o : ShiftOperand) (v : Byte) (c : Bool) : (s.shiftStore o v c).pc = s.pc := by cases o <;> rfl
@[simp] theorem shiftStore_runState (o : ShiftOperand) (v : Byte) (c : Bool) :
    (s.shiftStore o v c).runState = s.runState := by cases o <;> rfl
@[simp] theorem shiftStore_faultRecord (o : ShiftOperand) (v : Byte) (c : Bool) :
    (s.shiftStore o v c).faultRecord = s.faultRecord := by cases o <;> rfl

theorem shiftStore_wf (o : ShiftOperand) (v : Byte) (c : Bool) (h : s.mem.wf) : (s.shiftStore o v c).mem.wf := by
  cases o with
  | accumulator => exact h
  | memory m => exact s.memWrite_wf _ _ h

@[simp] theorem shiftStore_accumulator_flag (v : Byte) (c : Bool) (g : Flag) :
    (s.shiftStore .accumulator v c).flag g =
      if g = .n then v.getLsbD 7 else if g = .z then v == 0 else if g = .c then c else s.flag g := by
  simp [shiftStore]

@[simp] theorem shiftStore_memory_flag (m : MemOperand) (v : Byte) (c : Bool) (g : Flag) :
    (s.shiftStore (.memory m) v c).flag g = if g = .c then c else s.flag g := by
  simp [shiftStore]

/-! A branch writes PC and nothing else. -/

theorem branchIf_eq (cond : Bool) (b1 : Byte) :
    s.branchIf cond b1 = s.setPC (if cond then s.pc + 2 + branchOffset b1 else s.pc + 2) := by
  have h : s.pc + 1 + BitVec.ofNat 16 (operandLength .relative) = s.pc + 2 := by
    rw [show BitVec.ofNat 16 (operandLength .relative) = 1#16 from rfl, BitVec.add_assoc]
    rfl
  unfold branchIf branchTarget advance
  split
  · rfl
  · rw [h]

/-! Two-byte pushes and pulls (rule R65 (b)). -/

theorem pushWord_eq (v : Addr) : s.pushWord v =
    ((s.memWrite (stackAddr s.sp) (highByte v)).memWrite (stackAddr (s.sp - 1)) (lowByte v)).setSP (s.sp - 1 - 1) := rfl

theorem pulledWord_eq : s.pulledWord =
    wordOf (s.memRead (stackAddr (s.sp + 1 + 1))) (s.memRead (stackAddr (s.sp + 1))) := rfl

end Sys2Proof.Machine.State

namespace Sys2Proof.Machine

/-- The stack cells are the 256 addresses of the stack page (rule R35). -/
theorem toNat_stackAddr (sp : Byte) : (stackAddr sp).toNat = 0x100 + sp.toNat := by
  have h := sp.isLt
  unfold stackAddr Config.stackPage
  rw [BitVec.toNat_add, BitVec.toNat_setWidth]
  change (256 + _) % _ = _
  omega

/-- The stack page lies in the base block of RAM, so a stack cell is named by its own address (rules R61, R69). -/
theorem cellOf_stackAddr (sp : Byte) : cellOf (stackAddr sp) = 0x100 + sp.toNat := by
  have h := toNat_stackAddr sp
  have hs := sp.isLt
  rcases cellOf_cases (stackAddr sp) with c | c | c <;> omega

/-- Different stack pointers designate different cells. -/
theorem cellOf_stackAddr_inj {p q : Byte} (h : cellOf (stackAddr p) = cellOf (stackAddr q)) : p = q := by
  rw [cellOf_stackAddr, cellOf_stackAddr] at h
  exact BitVec.eq_of_toNat_eq (by omega)

end Sys2Proof.Machine
end

