-- ==== Sys2Proof/Laws/PerInstr.lean ====
section
/-! SUPPORT. The per-instruction family Encoding: a well-formed instruction has an opcode, and the decode tables give that opcode
the instruction's own mnemonic and mode. The "Encoding" lines of the instruction rules (WellFormed.lean, the encoder) and the map
of rule R93 (the decoder) are two transcriptions, and here they agree. -/

namespace Sys2Proof.Laws.Encoding

/-- The opcode of a well-formed instruction has the instruction's entry in the decode tables (rules R91, R93). -/
def Statement (i : Instr) : Prop :=
  i.wellFormed = true → ∃ op, i.opcode = some op ∧ decodeMnemonic op = i.mnemonic ∧ decodeMode op = i.mode

theorem adc (o : ReadOperand) : Statement (.adc o) := by
  rcases o with b1 | m
  · exact fun _ => ⟨_, rfl, rfl, rfl⟩
  · cases m <;>
      first
      | exact fun _ => ⟨_, rfl, rfl, rfl⟩
      | exact fun h => nomatch h

theorem sbc (opcode : Byte) (o : ReadOperand) : Statement (.sbc opcode o) := by
  intro h
  have table : ∀ e ∈ sbcEncodings, decodeMnemonic e.1 = .sbc ∧ decodeMode e.1 = e.2 := by decide
  exact ⟨opcode, rfl, table (opcode, o.mode) (List.contains_iff_mem.1 h)⟩

theorem and (o : ReadOperand) : Statement (.and o) := by
  rcases o with b1 | m
  · exact fun _ => ⟨_, rfl, rfl, rfl⟩
  · cases m <;>
      first
      | exact fun _ => ⟨_, rfl, rfl, rfl⟩
      | exact fun h => nomatch h

theorem ora (o : ReadOperand) : Statement (.ora o) := by
  rcases o with b1 | m
  · exact fun _ => ⟨_, rfl, rfl, rfl⟩
  · cases m <;>
      first
      | exact fun _ => ⟨_, rfl, rfl, rfl⟩
      | exact fun h => nomatch h

theorem eor (o : ReadOperand) : Statement (.eor o) := by
  rcases o with b1 | m
  · exact fun _ => ⟨_, rfl, rfl, rfl⟩
  · cases m <;>
      first
      | exact fun _ => ⟨_, rfl, rfl, rfl⟩
      | exact fun h => nomatch h

theorem asl (o : ShiftOperand) : Statement (.asl o) := by
  rcases o with b1 | m
  · exact fun _ => ⟨_, rfl, rfl, rfl⟩
  · cases m <;>
      first
      | exact fun _ => ⟨_, rfl, rfl, rfl⟩
      | exact fun h => nomatch h

theorem lsr (o : ShiftOperand) : Statement (.lsr o) := by
  rcases o with b1 | m
  · exact fun _ => ⟨_, rfl, rfl, rfl⟩
  · cases m <;>
      first
      | exact fun _ => ⟨_, rfl, rfl, rfl⟩
      | exact fun h => nomatch h

theorem rol (o : ShiftOperand) : Statement (.rol o) := by
  rcases o with b1 | m
  · exact fun _ => ⟨_, rfl, rfl, rfl⟩
  · cases m <;>
      first
      | exact fun _ => ⟨_, rfl, rfl, rfl⟩
      | exact fun h => nomatch h

theorem ror (o : ShiftOperand) : Statement (.ror o) := by
  rcases o with b1 | m
  · exact fun _ => ⟨_, rfl, rfl, rfl⟩
  · cases m <;>
      first
      | exact fun _ => ⟨_, rfl, rfl, rfl⟩
      | exact fun h => nomatch h

theorem cmp (o : ReadOperand) : Statement (.cmp o) := by
  rcases o with b1 | m
  · exact fun _ => ⟨_, rfl, rfl, rfl⟩
  · cases m <;>
      first
      | exact fun _ => ⟨_, rfl, rfl, rfl⟩
      | exact fun h => nomatch h

theorem cpx (o : ReadOperand) : Statement (.cpx o) := by
  rcases o with b1 | m
  · exact fun _ => ⟨_, rfl, rfl, rfl⟩
  · cases m <;>
      first
      | exact fun _ => ⟨_, rfl, rfl, rfl⟩
      | exact fun h => nomatch h

theorem cpy (o : ReadOperand) : Statement (.cpy o) := by
  rcases o with b1 | m
  · exact fun _ => ⟨_, rfl, rfl, rfl⟩
  · cases m <;>
      first
      | exact fun _ => ⟨_, rfl, rfl, rfl⟩
      | exact fun h => nomatch h

theorem inc (m : MemOperand) : Statement (.inc m) := by
  cases m <;>
    first
    | exact fun _ => ⟨_, rfl, rfl, rfl⟩
    | exact fun h => nomatch h

theorem dec (m : MemOperand) : Statement (.dec m) := by
  cases m <;>
    first
    | exact fun _ => ⟨_, rfl, rfl, rfl⟩
    | exact fun h => nomatch h

theorem inx : Statement .inx := fun _ => ⟨_, rfl, rfl, rfl⟩

theorem iny : Statement .iny := fun _ => ⟨_, rfl, rfl, rfl⟩

theorem dex : Statement .dex := fun _ => ⟨_, rfl, rfl, rfl⟩

theorem dey : Statement .dey := fun _ => ⟨_, rfl, rfl, rfl⟩

theorem bcc (b1 : Byte) : Statement (.bcc b1) := fun _ => ⟨_, rfl, rfl, rfl⟩

theorem bcs (b1 : Byte) : Statement (.bcs b1) := fun _ => ⟨_, rfl, rfl, rfl⟩

theorem beq (b1 : Byte) : Statement (.beq b1) := fun _ => ⟨_, rfl, rfl, rfl⟩

theorem bmi (b1 : Byte) : Statement (.bmi b1) := fun _ => ⟨_, rfl, rfl, rfl⟩

theorem bne (b1 : Byte) : Statement (.bne b1) := fun _ => ⟨_, rfl, rfl, rfl⟩

theorem bpl (b1 : Byte) : Statement (.bpl b1) := fun _ => ⟨_, rfl, rfl, rfl⟩

theorem bvc (b1 : Byte) : Statement (.bvc b1) := fun _ => ⟨_, rfl, rfl, rfl⟩

theorem bvs (b1 : Byte) : Statement (.bvs b1) := fun _ => ⟨_, rfl, rfl, rfl⟩

theorem bit (m : MemOperand) : Statement (.bit m) := by
  cases m <;>
    first
    | exact fun _ => ⟨_, rfl, rfl, rfl⟩
    | exact fun h => nomatch h

theorem jmp (o : JumpOperand) : Statement (.jmp o) := by
  cases o <;> exact fun _ => ⟨_, rfl, rfl, rfl⟩

theorem jsr (addr : Addr) : Statement (.jsr addr) := fun _ => ⟨_, rfl, rfl, rfl⟩

theorem rts : Statement .rts := fun _ => ⟨_, rfl, rfl, rfl⟩

theorem brk : Statement .brk := fun _ => ⟨_, rfl, rfl, rfl⟩

theorem rti : Statement .rti := fun _ => ⟨_, rfl, rfl, rfl⟩

theorem pha : Statement .pha := fun _ => ⟨_, rfl, rfl, rfl⟩

theorem php : Statement .php := fun _ => ⟨_, rfl, rfl, rfl⟩

theorem pla : Statement .pla := fun _ => ⟨_, rfl, rfl, rfl⟩

theorem plp : Statement .plp := fun _ => ⟨_, rfl, rfl, rfl⟩

theorem tax : Statement .tax := fun _ => ⟨_, rfl, rfl, rfl⟩

theorem tay : Statement .tay := fun _ => ⟨_, rfl, rfl, rfl⟩

theorem txa : Statement .txa := fun _ => ⟨_, rfl, rfl, rfl⟩

theorem tya : Statement .tya := fun _ => ⟨_, rfl, rfl, rfl⟩

theorem txs : Statement .txs := fun _ => ⟨_, rfl, rfl, rfl⟩

theorem tsx : Statement .tsx := fun _ => ⟨_, rfl, rfl, rfl⟩

theorem sec : Statement .sec := fun _ => ⟨_, rfl, rfl, rfl⟩

theorem clc : Statement .clc := fun _ => ⟨_, rfl, rfl, rfl⟩

theorem sei : Statement .sei := fun _ => ⟨_, rfl, rfl, rfl⟩

theorem cli : Statement .cli := fun _ => ⟨_, rfl, rfl, rfl⟩

theorem sed : Statement .sed := fun _ => ⟨_, rfl, rfl, rfl⟩

theorem cld : Statement .cld := fun _ => ⟨_, rfl, rfl, rfl⟩

theorem clv : Statement .clv := fun _ => ⟨_, rfl, rfl, rfl⟩

theorem nop (opcode : Byte) (o : NopOperand) : Statement (.nop opcode o) := by
  intro h
  have table : ∀ e ∈ nopEncodings, decodeMnemonic e.1 = .nop ∧ decodeMode e.1 = e.2 := by decide
  exact ⟨opcode, rfl, table (opcode, o.mode) (List.contains_iff_mem.1 h)⟩

theorem stp (opcode : Byte) : Statement (.stp opcode) := by
  intro h
  have table : ∀ op ∈ stpEncodings, decodeMnemonic op = .stp ∧ decodeMode op = .implied := by decide
  exact ⟨opcode, rfl, table opcode (List.contains_iff_mem.1 h)⟩

theorem lda (o : ReadOperand) : Statement (.lda o) := by
  rcases o with b1 | m
  · exact fun _ => ⟨_, rfl, rfl, rfl⟩
  · cases m <;>
      first
      | exact fun _ => ⟨_, rfl, rfl, rfl⟩
      | exact fun h => nomatch h

theorem ldx (o : ReadOperand) : Statement (.ldx o) := by
  rcases o with b1 | m
  · exact fun _ => ⟨_, rfl, rfl, rfl⟩
  · cases m <;>
      first
      | exact fun _ => ⟨_, rfl, rfl, rfl⟩
      | exact fun h => nomatch h

theorem ldy (o : ReadOperand) : Statement (.ldy o) := by
  rcases o with b1 | m
  · exact fun _ => ⟨_, rfl, rfl, rfl⟩
  · cases m <;>
      first
      | exact fun _ => ⟨_, rfl, rfl, rfl⟩
      | exact fun h => nomatch h

theorem sta (m : MemOperand) : Statement (.sta m) := by
  cases m <;>
    first
    | exact fun _ => ⟨_, rfl, rfl, rfl⟩
    | exact fun h => nomatch h

theorem stx (m : MemOperand) : Statement (.stx m) := by
  cases m <;>
    first
    | exact fun _ => ⟨_, rfl, rfl, rfl⟩
    | exact fun h => nomatch h

theorem sty (m : MemOperand) : Statement (.sty m) := by
  cases m <;>
    first
    | exact fun _ => ⟨_, rfl, rfl, rfl⟩
    | exact fun h => nomatch h

theorem slo (m : MemOperand) : Statement (.slo m) := by
  cases m <;>
    first
    | exact fun _ => ⟨_, rfl, rfl, rfl⟩
    | exact fun h => nomatch h

theorem rla (m : MemOperand) : Statement (.rla m) := by
  cases m <;>
    first
    | exact fun _ => ⟨_, rfl, rfl, rfl⟩
    | exact fun h => nomatch h

theorem sre (m : MemOperand) : Statement (.sre m) := by
  cases m <;>
    first
    | exact fun _ => ⟨_, rfl, rfl, rfl⟩
    | exact fun h => nomatch h

theorem rra (m : MemOperand) : Statement (.rra m) := by
  cases m <;>
    first
    | exact fun _ => ⟨_, rfl, rfl, rfl⟩
    | exact fun h => nomatch h

theorem dcp (m : MemOperand) : Statement (.dcp m) := by
  cases m <;>
    first
    | exact fun _ => ⟨_, rfl, rfl, rfl⟩
    | exact fun h => nomatch h

theorem isc (m : MemOperand) : Statement (.isc m) := by
  cases m <;>
    first
    | exact fun _ => ⟨_, rfl, rfl, rfl⟩
    | exact fun h => nomatch h

theorem anc (opcode b1 : Byte) : Statement (.anc opcode b1) := by
  intro h
  have table : ∀ op ∈ ancEncodings, decodeMnemonic op = .undocumented .anc ∧ decodeMode op = .immediate := by decide
  exact ⟨opcode, rfl, table opcode (List.contains_iff_mem.1 h)⟩

theorem alr (b1 : Byte) : Statement (.alr b1) := fun _ => ⟨_, rfl, rfl, rfl⟩

theorem arr (b1 : Byte) : Statement (.arr b1) := fun _ => ⟨_, rfl, rfl, rfl⟩

theorem xaa (b1 : Byte) : Statement (.xaa b1) := fun _ => ⟨_, rfl, rfl, rfl⟩

theorem lax (o : ReadOperand) : Statement (.lax o) := by
  rcases o with b1 | m
  · exact fun _ => ⟨_, rfl, rfl, rfl⟩
  · cases m <;>
      first
      | exact fun _ => ⟨_, rfl, rfl, rfl⟩
      | exact fun h => nomatch h

theorem sax (m : MemOperand) : Statement (.sax m) := by
  cases m <;>
    first
    | exact fun _ => ⟨_, rfl, rfl, rfl⟩
    | exact fun h => nomatch h

theorem ahx (m : MemOperand) : Statement (.ahx m) := by
  cases m <;>
    first
    | exact fun _ => ⟨_, rfl, rfl, rfl⟩
    | exact fun h => nomatch h

theorem tas (addr : Addr) : Statement (.tas addr) := fun _ => ⟨_, rfl, rfl, rfl⟩

theorem shy (addr : Addr) : Statement (.shy addr) := fun _ => ⟨_, rfl, rfl, rfl⟩

theorem shx (addr : Addr) : Statement (.shx addr) := fun _ => ⟨_, rfl, rfl, rfl⟩

theorem las (addr : Addr) : Statement (.las addr) := fun _ => ⟨_, rfl, rfl, rfl⟩

theorem axs (b1 : Byte) : Statement (.axs b1) := fun _ => ⟨_, rfl, rfl, rfl⟩

end Sys2Proof.Laws.Encoding
end

