-- ==== Sys2Proof/Laws/Safety.lean ====
section
/-! SUPPORT. The small laws of the terms claims are stated in. -/

namespace Sys2Proof.Machine

/-- The mirror groups of rule R62 are exactly the addresses of one cell of rule R61. -/
theorem mirrorGroup_iff (a b : Addr) : MirrorGroup a b ↔ cellOf b = cellOf a := by
  have e : a = b ↔ a.toNat = b.toNat := ⟨fun h => h ▸ rfl, BitVec.eq_of_toNat_eq⟩
  have ha := a.isLt
  have hb := b.isLt
  unfold MirrorGroup
  rw [e]
  rcases cellOf_cases a with h | h | h <;> rcases cellOf_cases b with k | k | k <;> omega

/-- A change is only of the listed parts when each register, and each flag, is listed or kept. -/
theorem changesOnly_of {regs : List Reg} {flags : List Flag} {s t : State} (ha : .a ∉ regs → t.a = s.a)
    (hx : .x ∉ regs → t.x = s.x) (hy : .y ∉ regs → t.y = s.y) (hsp : .sp ∉ regs → t.sp = s.sp)
    (hf : ∀ f, f ∉ flags → t.flag f = s.flag f) (hr : t.runState = s.runState) (hk : t.faultRecord = s.faultRecord) :
    ChangesOnly regs flags s t := by
  refine ⟨fun r h => ?_, hf, hr, hk⟩
  cases r with
  | a => exact ha h
  | x => exact hx h
  | y => exact hy h
  | sp => exact hsp h

/-- What keeps the memory field keeps every byte. -/
theorem sameBytes_of_mem {s t : State} (h : t.mem = s.mem) : SameBytes s t := fun a => by
  simp [State.memRead, h]

/-- One write changes only the bytes of its address's mirror group. -/
theorem sameBytesOutside_of_mem {s t : State} {a : Addr} {v : Byte} (h : t.mem = (s.memWrite a v).mem) :
    SameBytesOutside [a] s t := by
  intro b hb
  have hne : cellOf b ≠ cellOf a := fun he => hb a (by simp) ((mirrorGroup_iff a b).2 he)
  rw [← s.memRead_memWrite_other a b v hne]
  simp only [State.memRead, h]

/-- The mode-to-length table gives at most 2 (rule R92). -/
theorem operandLength_le (md : Mode) : operandLength md ≤ 2 := by cases md <;> decide

/-- The value of PC after the default advance (rule R137). -/
theorem toNat_advance (pc : Addr) (md : Mode) :
    (pc + 1 + BitVec.ofNat 16 (operandLength md)).toNat = (pc.toNat + 1 + operandLength md) % 65536 := by
  have h := operandLength_le md
  rw [BitVec.toNat_add, BitVec.toNat_add, BitVec.toNat_ofNat, show (1 : Addr).toNat = 1 from rfl]
  omega

/-- The default advance leaves PC where rule R137 says, from any state with the same PC. -/
theorem advanced_advance {s t : State} (md : Mode) (h : t.pc = s.pc) : Advanced md s (t.advance md) := by
  unfold Advanced
  rw [State.advance_pc, h, toNat_advance]

end Sys2Proof.Machine
end

