-- ==== Sys2Proof/Laws/Step.lean ====
section
/-! SUPPORT. What a step can do, once: it runs the instruction its bytes decode to, or stops. And what the entry points do to
memory. -/

namespace Sys2Proof.Machine

/-- A step that answers a next state ran, on a Running state, the instruction its bytes decode to. -/
theorem stepFrom_next {src : Source} {s t : State} (h : stepFrom src s = .next t) :
    s.runState = .running ∧ ∃ i rest, decode (s.fetch src) = .ok (i, rest) ∧ exec i s = .next t := by
  unfold stepFrom at h
  split at h
  · cases h
  · cases h
  · refine ⟨‹_›, ?_⟩
    split at h
    · exact ⟨_, _, ‹_›, h⟩
    · cases h

/-- The step of a Running state whose bytes decode. -/
theorem stepFrom_running {src : Source} {s : State} {i : Instr} {rest : List Byte} (hr : s.runState = .running)
    (hd : decode (s.fetch src) = .ok (i, rest)) : stepFrom src s = exec i s := by
  simp [stepFrom, hr, hd]

/-- The bytes of a memory-mode step (rules R131, R132), by the length of the instruction. -/
theorem fetch_memory (s : State) : s.fetch .memory =
    match operandLength (decodeMode (s.memRead s.pc)) with
    | 0 => [s.memRead s.pc]
    | 1 => [s.memRead s.pc, s.memRead (s.pc + 1)]
    | _ => [s.memRead s.pc, s.memRead (s.pc + 1), s.memRead (s.pc + 2)] := by
  have h0 : s.instrByte 0 = s.memRead s.pc := by simp [State.instrByte]
  have h1 : s.instrByte 1 = s.memRead (s.pc + 1) := rfl
  have h2 : s.instrByte 2 = s.memRead (s.pc + 2) := rfl
  simp only [State.fetch, h0]
  rcases operandLength_cases (decodeMode (s.memRead s.pc)) with h | h | h <;> simp [h, List.range_succ, h0, h1, h2]

/-- Writing a run of bytes keeps the canonical form. -/
theorem State.writeBytes_wf (bytes : List Byte) (s : State) (a : Addr) (h : s.mem.wf) : (s.writeBytes a bytes).mem.wf := by
  induction bytes generalizing s a with
  | nil => exact h
  | cons v rest ih => exact ih _ _ (s.memWrite_wf a v h)

/-- A collaborator's writes keep the canonical form. -/
theorem State.collaborate_wf (writes : List (Addr × Byte)) (s : State) (h : s.mem.wf) : (s.collaborate writes).mem.wf := by
  induction writes generalizing s with
  | nil => exact h
  | cons w rest ih => exact ih _ (s.memWrite_wf w.1 w.2 h)

/-- A collaborator writes memory and nothing else (rule R72). -/
theorem State.collaborate_eq (writes : List (Addr × Byte)) (s : State) :
    s.collaborate writes = { s with mem := (s.collaborate writes).mem } := by
  induction writes generalizing s with
  | nil => rfl
  | cons w rest ih => exact ih (s.memWrite w.1 w.2)

/-- A run of one step more (rule R141). -/
theorem runLoop_cons (writes : List (Addr × Byte)) (rest : List (List (Addr × Byte))) (s : State) :
    runLoop (writes :: rest) s =
      match step s with
      | .next t => if t.runState = .running then runLoop rest (t.collaborate writes) else t
      | .fault _ => s
      | .refused _ => s := rfl

end Sys2Proof.Machine
end

