-- ==== Sys2Proof/Machine/Assembly.lean ====
section
/-! DEFINITION. The assembler syntax of rule R108: how an instruction is written, and the offset byte a branch to a label gets.
No behaviour of the machine depends on it. -/

namespace Sys2Proof.Machine

/-- A mnemonic as the spec spells it (rules R93, R253). -/
def mnemonicName : Mnemonic → String
  | .adc => "ADC"
  | .sbc => "SBC"
  | .and => "AND"
  | .ora => "ORA"
  | .eor => "EOR"
  | .asl => "ASL"
  | .lsr => "LSR"
  | .rol => "ROL"
  | .ror => "ROR"
  | .cmp => "CMP"
  | .cpx => "CPX"
  | .cpy => "CPY"
  | .inc => "INC"
  | .dec => "DEC"
  | .inx => "INX"
  | .iny => "INY"
  | .dex => "DEX"
  | .dey => "DEY"
  | .bcc => "BCC"
  | .bcs => "BCS"
  | .beq => "BEQ"
  | .bmi => "BMI"
  | .bne => "BNE"
  | .bpl => "BPL"
  | .bvc => "BVC"
  | .bvs => "BVS"
  | .bit => "BIT"
  | .jmp => "JMP"
  | .jsr => "JSR"
  | .rts => "RTS"
  | .brk => "BRK"
  | .rti => "RTI"
  | .pha => "PHA"
  | .php => "PHP"
  | .pla => "PLA"
  | .plp => "PLP"
  | .tax => "TAX"
  | .tay => "TAY"
  | .txa => "TXA"
  | .tya => "TYA"
  | .txs => "TXS"
  | .tsx => "TSX"
  | .sec => "SEC"
  | .clc => "CLC"
  | .sei => "SEI"
  | .cli => "CLI"
  | .sed => "SED"
  | .cld => "CLD"
  | .clv => "CLV"
  | .nop => "NOP"
  | .stp => "STP"
  | .lda => "LDA"
  | .ldx => "LDX"
  | .ldy => "LDY"
  | .sta => "STA"
  | .stx => "STX"
  | .sty => "STY"
  | .undocumented .slo => "SLO"
  | .undocumented .rla => "RLA"
  | .undocumented .sre => "SRE"
  | .undocumented .rra => "RRA"
  | .undocumented .dcp => "DCP"
  | .undocumented .isc => "ISC"
  | .undocumented .anc => "ANC"
  | .undocumented .alr => "ALR"
  | .undocumented .arr => "ARR"
  | .undocumented .xaa => "XAA"
  | .undocumented .lax => "LAX"
  | .undocumented .sax => "SAX"
  | .undocumented .ahx => "AHX"
  | .undocumented .tas => "TAS"
  | .undocumented .shy => "SHY"
  | .undocumented .shx => "SHX"
  | .undocumented .las => "LAS"
  | .undocumented .axs => "AXS"

/-- A hexadecimal digit. -/
def hexDigit (n : Nat) : Char :=
  ['0', '1', '2', '3', '4', '5', '6', '7', '8', '9', 'A', 'B', 'C', 'D', 'E', 'F'].getD n '0'

/-- `$nn` of rule R108. -/
def hexByte (b : Byte) : String := String.ofList ['$', hexDigit (b.toNat / 16), hexDigit (b.toNat % 16)]

/-- `$nnnn` of rule R108. -/
def hexWord (a : Addr) : String :=
  String.ofList ['$', hexDigit (a.toNat / 4096), hexDigit (a.toNat / 256 % 16), hexDigit (a.toNat / 16 % 16),
    hexDigit (a.toNat % 16)]

/-- A data operand as rule R108 writes it, one form per mode. -/
def memForm : MemOperand → String
  | .zeroPage b1 => hexByte b1
  | .zeroPageX b1 => hexByte b1 ++ ",X"
  | .zeroPageY b1 => hexByte b1 ++ ",Y"
  | .absolute a => hexWord a
  | .absoluteX a => hexWord a ++ ",X"
  | .absoluteY a => hexWord a ++ ",Y"
  | .indexedIndirect b1 => "(" ++ hexByte b1 ++ ",X)"
  | .indirectIndexed b1 => "(" ++ hexByte b1 ++ "),Y"

@[inherit_doc memForm]
def readForm : ReadOperand → String
  | .immediate b1 => "#" ++ hexByte b1
  | .memory m => memForm m

/-- The offset of a relative branch as rule R108 writes it without a label: `*+d` or `*-d`, d from the branch itself. -/
def relativeForm (b1 : Byte) : String :=
  let d := b1.toInt + 2
  if d < 0 then "*-" ++ toString d.natAbs else "*+" ++ toString d.natAbs

/-- The operand of an instruction as rule R108 writes it; none for mode None. -/
def operandForm : Instr → Option String
  | .adc o | .sbc _ o | .and o | .ora o | .eor o | .cmp o | .cpx o | .cpy o | .lda o | .ldx o | .ldy o | .lax o =>
    some (readForm o)
  | .asl o | .lsr o | .rol o | .ror o =>
    match o with
    | .accumulator => none
    | .memory m => some (memForm m)
  | .inc m | .dec m | .bit m | .sta m | .stx m | .sty m | .slo m | .rla m | .sre m | .rra m | .dcp m | .isc m | .sax m
  | .ahx m => some (memForm m)
  | .jmp o =>
    match o with
    | .absolute a => some (hexWord a)
    | .indirect a => some ("(" ++ hexWord a ++ ")")
  | .nop _ o =>
    match o with
    | .implied => none
    | .immediate b1 => some ("#" ++ hexByte b1)
    | .memory m => some (memForm m)
  | .bcc b1 | .bcs b1 | .beq b1 | .bmi b1 | .bne b1 | .bpl b1 | .bvc b1 | .bvs b1 => some (relativeForm b1)
  | .anc _ b1 | .alr b1 | .arr b1 | .xaa b1 | .axs b1 => some ("#" ++ hexByte b1)
  | .jsr a => some (hexWord a)
  | .shy a => some (hexWord a ++ ",X")
  | .tas a | .shx a | .las a => some (hexWord a ++ ",Y")
  | .inx | .iny | .dex | .dey | .rts | .brk | .rti | .pha | .php | .pla | .plp | .tax | .tay | .txa | .tya | .txs | .tsx
  | .sec | .clc | .sei | .cli | .sed | .cld | .clv | .stp _ => none

/-- An instruction as rule R108 writes it. -/
def assembly (i : Instr) : String :=
  match operandForm i with
  | some o => mnemonicName i.mnemonic ++ " " ++ o
  | none => mnemonicName i.mnemonic

/-- The offset byte of a branch at `pc0` to a label (rule R108): `target - (pc0 + 2)` modulo 65536, where that is an offset of one
signed byte. -/
def offsetTo (pc0 target : Addr) : Option Byte :=
  let d := target - (pc0 + 2)
  let b1 := lowByte d
  if b1.signExtend 16 = d then some b1 else none

end Sys2Proof.Machine
end

