-- ==== Sys2Proof/Tests/Slice0.lean ====
section
/-! SUPPORT. Tests and witnesses. Every expected result is taken from the spec: the "Encoding" lines of the instruction rules, the
opcode map of rule R93, the worked vectors V-… of 95_test_vectors.md (named before each test) and the rules' own examples. -/

namespace Sys2Proof.Tests

open Sys2Proof.Machine

/-- The next state of a result. -/
def nextOf : Result → Option State
  | .next t => some t
  | .fault _ => none
  | .refused _ => none

/-- The fault of a result. -/
def faultOf : Result → Option Fault
  | .next _ => none
  | .fault r => some r
  | .refused _ => none

/-- The refusal of a result. -/
def refusalOf : Result → Option Refusal
  | .next _ => none
  | .fault _ => none
  | .refused r => some r

/-- The state after one step, with the instruction's bytes stored at PC first. -/
def after (s : State) (bytes : List Byte) : Option State := nextOf (step (s.writeBytes s.pc bytes))

/-- The instruction a list of bytes is, where the bytes are exactly one instruction. -/
def reads (bytes : List Byte) : Option Instr :=
  match decode bytes with
  | .ok (i, []) => some i
  | _ => none

/-! ### Well-formedness: each check refuses an ill-formed term and accepts a neighbour the spec lists -/

theorem test_wellFormed_adc_and_ora_eor_cmp_lda :
    (∀ i ∈ [Instr.adc (.memory (.zeroPageY 0)), .and (.memory (.zeroPageY 0)), .ora (.memory (.zeroPageY 0)),
           .eor (.memory (.zeroPageY 0)), .cmp (.memory (.zeroPageY 0)), .lda (.memory (.zeroPageY 0))], i.wellFormed = false ∧ encode i = none) ∧
      ∀ i ∈ [Instr.adc (.memory (.indexedIndirect 0)), .lda (.immediate 0)], i.wellFormed = true := by
  decide

theorem test_wellFormed_sbc :
    (∀ i ∈ [Instr.sbc 0xE9 (.memory (.zeroPage 0)), .sbc 0xEA (.immediate 0), .sbc 0xE5 (.memory (.zeroPageY 0))], i.wellFormed = false ∧ encode i = none) ∧
      ∀ i ∈ [Instr.sbc 0xEB (.immediate 0)], i.wellFormed = true := by
  decide

theorem test_wellFormed_shifts :
    (∀ i ∈ [Instr.asl (.memory (.absoluteY 0)), .lsr (.memory (.zeroPageY 0)), .rol (.memory (.indexedIndirect 0)),
           .ror (.memory (.indirectIndexed 0))], i.wellFormed = false ∧ encode i = none) ∧
      ∀ i ∈ [Instr.asl .accumulator, .ror (.memory (.absoluteX 0))], i.wellFormed = true := by
  decide

theorem test_wellFormed_cpx_cpy :
    (∀ i ∈ [Instr.cpx (.memory (.zeroPageX 0)), .cpy (.memory (.absoluteX 0))], i.wellFormed = false ∧ encode i = none) ∧
      ∀ i ∈ [Instr.cpx (.immediate 0), .cpy (.memory (.absolute 0))], i.wellFormed = true := by
  decide

theorem test_wellFormed_inc_dec :
    (∀ i ∈ [Instr.inc (.indexedIndirect 0), .dec (.absoluteY 0)], i.wellFormed = false ∧ encode i = none) ∧
      ∀ i ∈ [Instr.inc (.absoluteX 0)], i.wellFormed = true := by
  decide

theorem test_wellFormed_bit :
    (∀ i ∈ [Instr.bit (.zeroPageX 0)], i.wellFormed = false ∧ encode i = none) ∧
      ∀ i ∈ [Instr.bit (.absolute 0)], i.wellFormed = true := by
  decide

theorem test_wellFormed_nop :
    (∀ i ∈ [Instr.nop 0xEA (.immediate 0), .nop 0x80 .implied, .nop 0x04 (.memory (.absolute 0)), .nop 0x00 .implied], i.wellFormed = false ∧ encode i = none) ∧
      ∀ i ∈ [Instr.nop 0x1C (.memory (.absoluteX 0))], i.wellFormed = true := by
  decide

theorem test_wellFormed_stp :
    (∀ i ∈ [Instr.stp 0x00, .stp 0x82], i.wellFormed = false ∧ encode i = none) ∧
      ∀ i ∈ [Instr.stp 0x92], i.wellFormed = true := by
  decide

theorem test_wellFormed_ldx_ldy :
    (∀ i ∈ [Instr.ldx (.memory (.zeroPageX 0)), .ldy (.memory (.zeroPageY 0))], i.wellFormed = false ∧ encode i = none) ∧
      ∀ i ∈ [Instr.ldx (.memory (.zeroPageY 0)), .ldy (.memory (.absoluteX 0))], i.wellFormed = true := by
  decide

theorem test_wellFormed_stores :
    (∀ i ∈ [Instr.sta (.zeroPageY 0), .stx (.zeroPageX 0), .sty (.zeroPageY 0), .stx (.absoluteY 0)], i.wellFormed = false ∧ encode i = none) ∧
      ∀ i ∈ [Instr.sta (.absoluteY 0), .stx (.zeroPageY 0), .sty (.zeroPageX 0)], i.wellFormed = true := by
  decide

theorem test_wellFormed_undocumented_read_modify_write :
    (∀ i ∈ [Instr.slo (.zeroPageY 0), .rla (.zeroPageY 0), .sre (.zeroPageY 0), .rra (.zeroPageY 0),
           .dcp (.zeroPageY 0), .isc (.zeroPageY 0)], i.wellFormed = false ∧ encode i = none) ∧
      ∀ i ∈ [Instr.slo (.absoluteY 0)], i.wellFormed = true := by
  decide

theorem test_wellFormed_anc_lax_sax_ahx :
    (∀ i ∈ [Instr.anc 0x4B 0, .lax (.memory (.zeroPageX 0)), .sax (.absoluteX 0), .ahx (.zeroPage 0)], i.wellFormed = false ∧ encode i = none) ∧
      ∀ i ∈ [Instr.anc 0x2B 0, .lax (.immediate 0), .sax (.indexedIndirect 0), .ahx (.absoluteY 0)], i.wellFormed = true := by
  decide

/-! ### Decoding: words written out from the "Encoding" lines, every constructor at least once -/

theorem test_decode_arithmetic : ∀ e ∈
    [([0x69, 0x1E], Instr.adc (.immediate 0x1E)), ([0x71, 0x40], .adc (.memory (.indirectIndexed 0x40))),
     ([0xE9, 0xB0], .sbc 0xE9 (.immediate 0xB0)), ([0xEB, 0x01], .sbc 0xEB (.immediate 0x01)),
     ([0xF9, 0x12, 0x34], .sbc 0xF9 (.memory (.absoluteY 0x1234)))],
    reads e.1 = some e.2 ∧ encode e.2 = some e.1 := by
  decide

theorem test_decode_logic : ∀ e ∈
    [([0x29, 0x0F], Instr.and (.immediate 0x0F)), ([0x39, 0x12, 0x34], .and (.memory (.absoluteY 0x1234))),
     ([0x09, 0x01], .ora (.immediate 0x01)), ([0x01, 0x20], .ora (.memory (.indexedIndirect 0x20))),
     ([0x49, 0xFF], .eor (.immediate 0xFF)), ([0x5D, 0x12, 0x34], .eor (.memory (.absoluteX 0x1234)))],
    reads e.1 = some e.2 ∧ encode e.2 = some e.1 := by
  decide

theorem test_decode_shifts : ∀ e ∈
    [([0x0A], Instr.asl .accumulator), ([0x06, 0x10], .asl (.memory (.zeroPage 0x10))),
     ([0x4A], .lsr .accumulator), ([0x5E, 0x12, 0x34], .lsr (.memory (.absoluteX 0x1234))),
     ([0x2A], .rol .accumulator), ([0x2E, 0x12, 0x34], .rol (.memory (.absolute 0x1234))),
     ([0x6A], .ror .accumulator), ([0x76, 0x10], .ror (.memory (.zeroPageX 0x10)))],
    reads e.1 = some e.2 ∧ encode e.2 = some e.1 := by
  decide

theorem test_decode_compares : ∀ e ∈
    [([0xC9, 0x10], Instr.cmp (.immediate 0x10)), ([0xD9, 0x12, 0x34], .cmp (.memory (.absoluteY 0x1234))),
     ([0xE0, 0x55], .cpx (.immediate 0x55)), ([0xEC, 0x12, 0x34], .cpx (.memory (.absolute 0x1234))),
     ([0xC0, 0x00], .cpy (.immediate 0x00)), ([0xC4, 0x10], .cpy (.memory (.zeroPage 0x10)))],
    reads e.1 = some e.2 ∧ encode e.2 = some e.1 := by
  decide

theorem test_decode_increments : ∀ e ∈
    [([0xE6, 0x20], Instr.inc (.zeroPage 0x20)), ([0xFE, 0x12, 0x34], .inc (.absoluteX 0x1234)),
     ([0xC6, 0x20], .dec (.zeroPage 0x20)), ([0xD6, 0x20], .dec (.zeroPageX 0x20)), ([0xE8], .inx),
     ([0xC8], .iny), ([0xCA], .dex), ([0x88], .dey)],
    reads e.1 = some e.2 ∧ encode e.2 = some e.1 := by
  decide

theorem test_decode_branches_and_bit : ∀ e ∈
    [([0x90, 0xF0], Instr.bcc 0xF0), ([0xB0, 0x20], .bcs 0x20), ([0xF0, 0xFE], .beq 0xFE),
     ([0x30, 0x80], .bmi 0x80), ([0xD0, 0x00], .bne 0x00), ([0x10, 0x7F], .bpl 0x7F),
     ([0x50, 0x05], .bvc 0x05), ([0x70, 0x05], .bvs 0x05), ([0x24, 0x30], .bit (.zeroPage 0x30)),
     ([0x2C, 0x12, 0x34], .bit (.absolute 0x1234))],
    reads e.1 = some e.2 ∧ encode e.2 = some e.1 := by
  decide

theorem test_decode_jumps : ∀ e ∈
    [([0x4C, 0x12, 0x34], Instr.jmp (.absolute 0x1234)), ([0x6C, 0x40, 0xFF], .jmp (.indirect 0x40FF)),
     ([0x20, 0x03, 0x00], .jsr 0x0300), ([0x60], .rts), ([0x00], .brk), ([0x40], .rti)],
    reads e.1 = some e.2 ∧ encode e.2 = some e.1 := by
  decide

theorem test_decode_stack_and_transfers : ∀ e ∈
    [([0x48], Instr.pha), ([0x08], .php), ([0x68], .pla), ([0x28], .plp), ([0xAA], .tax), ([0xA8], .tay),
     ([0x8A], .txa), ([0x98], .tya), ([0x9A], .txs), ([0xBA], .tsx)],
    reads e.1 = some e.2 ∧ encode e.2 = some e.1 := by
  decide

theorem test_decode_flags_nop_and_stp : ∀ e ∈
    [([0x38], Instr.sec), ([0x18], .clc), ([0x78], .sei), ([0x58], .cli), ([0xF8], .sed), ([0xD8], .cld),
     ([0xB8], .clv), ([0xEA], .nop 0xEA .implied), ([0x80, 0xFF], .nop 0x80 (.immediate 0xFF)),
     ([0x1C, 0x12, 0x34], .nop 0x1C (.memory (.absoluteX 0x1234))), ([0x02], .stp 0x02), ([0xF2], .stp 0xF2)],
    reads e.1 = some e.2 ∧ encode e.2 = some e.1 := by
  decide

theorem test_decode_loads_and_stores : ∀ e ∈
    [([0xA9, 0x3C], Instr.lda (.immediate 0x3C)), ([0xAD, 0x12, 0x34], .lda (.memory (.absolute 0x1234))),
     ([0xA2, 0x05], .ldx (.immediate 0x05)), ([0xB6, 0xF0], .ldx (.memory (.zeroPageY 0xF0))),
     ([0xA0, 0x00], .ldy (.immediate 0x00)), ([0xBC, 0x12, 0x34], .ldy (.memory (.absoluteX 0x1234))),
     ([0x85, 0x07], .sta (.zeroPage 0x07)), ([0x91, 0x40], .sta (.indirectIndexed 0x40)),
     ([0x96, 0xFF], .stx (.zeroPageY 0xFF)), ([0x8C, 0x20, 0x01], .sty (.absolute 0x2001))],
    reads e.1 = some e.2 ∧ encode e.2 = some e.1 := by
  decide

theorem test_decode_undocumented : ∀ e ∈
    [([0x07, 0x10], Instr.slo (.zeroPage 0x10)), ([0x27, 0x10], .rla (.zeroPage 0x10)),
     ([0x47, 0x10], .sre (.zeroPage 0x10)), ([0x67, 0x10], .rra (.zeroPage 0x10)),
     ([0xC7, 0x10], .dcp (.zeroPage 0x10)), ([0xFF, 0x00, 0x00], .isc (.absoluteX 0x0000)),
     ([0x0B, 0x01], .anc 0x0B 0x01), ([0x2B, 0x01], .anc 0x2B 0x01), ([0x4B, 0x01], .alr 0x01),
     ([0x6B, 0x01], .arr 0x01), ([0x8B, 0x01], .xaa 0x01), ([0xA7, 0x10], .lax (.memory (.zeroPage 0x10))),
     ([0xAB, 0x01], .lax (.immediate 0x01)), ([0x87, 0x10], .sax (.zeroPage 0x10)),
     ([0x93, 0x10], .ahx (.indirectIndexed 0x10)), ([0x9B, 0x12, 0x34], .tas 0x1234),
     ([0x9C, 0x12, 0x34], .shy 0x1234), ([0x9E, 0x12, 0x34], .shx 0x1234),
     ([0xBB, 0x12, 0x34], .las 0x1234), ([0xCB, 0x01], .axs 0x01)],
    reads e.1 = some e.2 ∧ encode e.2 = some e.1 := by
  decide

/-- Rule R94's five classes: 151 official, 27 undocumented NOPs, 1 undocumented SBC, 12 STP, 65 that fault. -/
theorem test_opcode_classes :
    let all := (List.range 256).map (BitVec.ofNat 8)
    let undocumented := all.filter fun b => match decodeMnemonic b with
      | .undocumented _ => true
      | _ => false
    undocumented.length = 65 ∧ (all.filter (decodeMnemonic · == .stp)).length = 12 ∧
      (all.filter (decodeMnemonic · == .nop)).length = 28 ∧ (all.filter (decodeMnemonic · == .sbc)).length = 9 := by
  decide +kernel

/-- Rule R142's short buffers, and bytes after the instruction left over. -/
theorem test_decode_lengths :
    decode [] = .error .noOpcode ∧ decode [0xAD, 0x12] = .error (.truncated 0xAD) ∧ decode [0xA9] = .error (.truncated 0xA9) ∧
      decode [0xE8, 0x01, 0x02] = .ok (.inx, [0x01, 0x02]) := by
  refine ⟨rfl, rfl, rfl, rfl⟩

/-- The table numbering: the first byte is the low one of the word. -/
theorem test_decodeTableWord :
    decodeTableWord 24 0x3412AD = some (.lda (.memory (.absolute 0x1234))) ∧
      decodeTableWord 16 0xFFFF3CA9 = some (.lda (.immediate 0x3C)) ∧
      decodeTableWord 8 0x6C = some (.jmp (.indirect 0x0000)) ∧ decodeTableWord 0 0xFF = some .brk := by
  decide

theorem test_withFetchWord :
    (nextOf (step (State.reset.withFetchWord 16 0x3CA9))).map (fun t => (t.a, t.pc)) = some (0x3C, 0x0002) ∧
      (nextOf (Sys2Proof.core.step (State.withFetchWord { State.reset with pc := 0xFFFE } 24 0x341220))).map (·.pc) = some 0x1234 := by
  decide

/-! ### One step of each instruction -/

/-- V-AR-4. -/
theorem test_adc_binary_carry_and_overflow :
    (after { State.reset with a := 0x80 } [0x69, 0x80]).map
      (fun t => (t.a, t.p, t.pc)) = some (0x00, 0x43, 0x0002) := by
  decide

/-- V-AR-17. -/
theorem test_adc_decimal :
    (after { State.reset with a := 0x99, p := 0x09 } [0x69, 0x99]).map
      (fun t => (t.a, t.p, t.pc)) = some (0x39, 0x48, 0x0002) := by
  decide

/-- V-AR-11. -/
theorem test_sbc_binary_overflow :
    (after { State.reset with a := 0x80, p := 0x01 } [0xE9, 0x01]).map
      (fun t => (t.a, t.p, t.pc)) = some (0x7F, 0x41, 0x0002) := by
  decide

/-- V-AR-21. -/
theorem test_sbc_decimal_borrow :
    (after { State.reset with a := 0x00, p := 0x09 } [0xE9, 0x01]).map
      (fun t => (t.a, t.p, t.pc)) = some (0x95, 0x88, 0x0002) := by
  decide

/-- V-LG-6. -/
theorem test_and_keeps_carry_and_overflow :
    (after { State.reset with a := 0xFF, p := 0x41 } [0x29, 0x80]).map
      (fun t => (t.a, t.p, t.pc)) = some (0x80, 0xC1, 0x0002) := by
  decide

/-- V-LG-2. -/
theorem test_ora :
    (after { State.reset with a := 0x80 } [0x09, 0x01]).map
      (fun t => (t.a, t.p, t.pc)) = some (0x81, 0x80, 0x0002) := by
  decide

/-- V-LG-5. -/
theorem test_eor :
    (after { State.reset with a := 0x0F } [0x49, 0xFF]).map
      (fun t => (t.a, t.p, t.pc)) = some (0xF0, 0x80, 0x0002) := by
  decide

/-- V-SH-2. -/
theorem test_asl_accumulator :
    (after { State.reset with a := 0x80 } [0x0A]).map
      (fun t => (t.a, t.p, t.pc)) = some (0x00, 0x03, 0x0001) := by
  decide

/-- V-SH-8. -/
theorem test_asl_memory_keeps_zero_and_negative :
    (after (State.collaborate { State.reset with p := 0x82 } [(0x0010, 0x40)]) [0x06, 0x10]).map
      (fun t => (t.memRead 0x0010, t.p, t.pc)) = some (0x80, 0x82, 0x0002) := by
  decide

/-- V-SH-3. -/
theorem test_lsr :
    (after { State.reset with a := 0x01 } [0x4A]).map
      (fun t => (t.a, t.p, t.pc)) = some (0x00, 0x03, 0x0001) := by
  decide

/-- V-SH-4. -/
theorem test_rol :
    (after { State.reset with a := 0x80, p := 0x01 } [0x2A]).map
      (fun t => (t.a, t.p, t.pc)) = some (0x01, 0x01, 0x0001) := by
  decide

/-- V-SH-6. -/
theorem test_ror_accumulator :
    (after { State.reset with a := 0x00, p := 0x01 } [0x6A]).map
      (fun t => (t.a, t.p, t.pc)) = some (0x80, 0x80, 0x0001) := by
  decide

/-- V-SH-9. -/
theorem test_ror_memory :
    (after (State.collaborate { State.reset with p := 0x01 } [(0x0010, 0x01)]) [0x66, 0x10]).map
      (fun t => (t.memRead 0x0010, t.p, t.pc)) = some (0x80, 0x01, 0x0002) := by
  decide

/-- V-CP-1. -/
theorem test_cmp_greater :
    (after { State.reset with a := 0xFF } [0xC9, 0x01]).map
      (fun t => (t.p, t.pc)) = some (0x01, 0x0002) := by
  decide

/-- V-CP-2. -/
theorem test_cmp_less :
    (after { State.reset with a := 0x01 } [0xC9, 0xFF]).map
      (fun t => (t.p, t.pc)) = some (0x80, 0x0002) := by
  decide

/-- V-CP-4. -/
theorem test_cpx_compares_a :
    (after { State.reset with a := 0x10, x := 0x20 } [0xE0, 0x55]).map
      (fun t => (t.p, t.pc)) = some (0x80, 0x0002) := by
  decide

/-- V-CP-7. -/
theorem test_cpy_compares_a :
    (after { State.reset with a := 0x07, y := 0x08 } [0xC0, 0x07]).map
      (fun t => (t.p, t.pc)) = some (0x80, 0x0002) := by
  decide

/-- V-ID-9. -/
theorem test_inc_wraps :
    (after (State.collaborate { State.reset with p := 0x01 } [(0x0020, 0xFF)]) [0xE6, 0x20]).map
      (fun t => (t.memRead 0x0020, t.p, t.pc)) = some (0x00, 0x03, 0x0002) := by
  decide

/-- V-ID-3. -/
theorem test_dec_wraps :
    (after { State.reset with p := 0x00 } [0xC6, 0x20]).map
      (fun t => (t.memRead 0x0020, t.p, t.pc)) = some (0xFF, 0x80, 0x0002) := by
  decide

/-- V-ID-5. -/
theorem test_inx_wraps :
    (after { State.reset with x := 0xFF } [0xE8]).map
      (fun t => (t.x, t.p, t.pc)) = some (0x00, 0x02, 0x0001) := by
  decide

/-- V-ID-6. -/
theorem test_iny :
    (after { State.reset with y := 0x7F } [0xC8]).map
      (fun t => (t.y, t.p, t.pc)) = some (0x80, 0x80, 0x0001) := by
  decide

/-- V-ID-7. -/
theorem test_dex_wraps :
    (after { State.reset with x := 0x00 } [0xCA]).map
      (fun t => (t.x, t.p, t.pc)) = some (0xFF, 0x80, 0x0001) := by
  decide

/-- V-ID-8. -/
theorem test_dey :
    (after { State.reset with y := 0x01 } [0x88]).map
      (fun t => (t.y, t.p, t.pc)) = some (0x00, 0x02, 0x0001) := by
  decide

/-- V-BR-6. -/
theorem test_bcc_taken :
    (after { State.reset with pc := 0x0005 } [0x90, 0xF0]).map
      (fun t => (t.pc, t.p)) = some (0xFFF7, 0x00) := by
  decide

/-- V-BR-10. -/
theorem test_bcc_not_taken :
    (after { State.reset with pc := 0x0010, p := 0x01 } [0x90, 0x05]).map
      (fun t => (t.pc, t.p)) = some (0x0012, 0x01) := by
  decide

/-- V-BR-5. -/
theorem test_bcs_taken :
    (after { State.reset with pc := 0xFFF0, p := 0x01 } [0xB0, 0x20]).map
      (fun t => (t.pc, t.p)) = some (0x0012, 0x01) := by
  decide

/-- V-BR-1. -/
theorem test_beq_taken :
    (after { State.reset with pc := 0x0010, p := 0x02 } [0xF0, 0xFE]).map
      (fun t => (t.pc, t.p)) = some (0x0010, 0x02) := by
  decide

/-- V-BR-2. -/
theorem test_beq_not_taken :
    (after { State.reset with pc := 0x0010 } [0xF0, 0xFE]).map
      (fun t => (t.pc, t.p)) = some (0x0012, 0x00) := by
  decide

/-- V-BR-4. -/
theorem test_bmi_taken :
    (after { State.reset with pc := 0x0010, p := 0x80 } [0x30, 0x80]).map
      (fun t => (t.pc, t.p)) = some (0xFF92, 0x80) := by
  decide

/-- program P2, the branch at 0x0007. -/
theorem test_bne_taken :
    (after { State.reset with pc := 0x0007 } [0xD0, 0xF9]).map
      (fun t => (t.pc, t.p)) = some (0x0002, 0x00) := by
  decide

/-- V-BR-9. -/
theorem test_bne_offset_zero :
    (after { State.reset with pc := 0x0010 } [0xD0, 0x00]).map
      (fun t => (t.pc, t.p)) = some (0x0012, 0x00) := by
  decide

/-- V-BR-3. -/
theorem test_bpl_taken :
    (after { State.reset with pc := 0x0010 } [0x10, 0x7F]).map
      (fun t => (t.pc, t.p)) = some (0x0091, 0x00) := by
  decide

/-- V-BR-7. -/
theorem test_bvc_not_taken :
    (after { State.reset with pc := 0x0010, p := 0x40 } [0x50, 0x05]).map
      (fun t => (t.pc, t.p)) = some (0x0012, 0x40) := by
  decide

/-- V-BR-8. -/
theorem test_bvs_taken :
    (after { State.reset with pc := 0x0010, p := 0x40 } [0x70, 0x05]).map
      (fun t => (t.pc, t.p)) = some (0x0017, 0x40) := by
  decide

/-- V-BT-1. -/
theorem test_bit_sets_flags :
    (after (State.collaborate { State.reset with a := 0x01 } [(0x0030, 0xC0)]) [0x24, 0x30]).map
      (fun t => (t.a, t.p, t.pc)) = some (0x01, 0xC2, 0x0002) := by
  decide

/-- V-BT-2. -/
theorem test_bit_clears_zero :
    (after (State.collaborate { State.reset with a := 0x41, p := 0x02 } [(0x0030, 0x01)]) [0x24, 0x30]).map
      (fun t => (t.a, t.p, t.pc)) = some (0x41, 0x00, 0x0002) := by
  decide

/-- V-JP-1. -/
theorem test_jmp_absolute :
    (after { State.reset with pc := 0x0200 } [0x4C, 0x12, 0x34]).map
      (fun t => (t.pc, t.p)) = some (0x1234, 0x00) := by
  decide

/-- V-JP-3. -/
theorem test_jmp_indirect_across_a_page :
    (after (State.collaborate { State.reset with pc := 0x0200 } [(0x40FF, 0x34), (0x4100, 0x12), (0x4000, 0x99)]) [0x6C, 0x40, 0xFF]).map
      (fun t => (t.pc, t.p)) = some (0x1234, 0x00) := by
  decide

/-- V-JP-4. -/
theorem test_jsr :
    (after { State.reset with pc := 0x0200, sp := 0xFF } [0x20, 0x03, 0x00]).map
      (fun t => (t.sp, t.memRead 0x01FF, t.memRead 0x01FE, t.pc)) = some (0xFD, 0x02, 0x02, 0x0300) := by
  decide

/-- V-JP-6. -/
theorem test_jsr_wraps :
    (after { State.reset with pc := 0xFFFE, sp := 0x00 } [0x20, 0x12, 0x34]).map
      (fun t => (t.memRead 0x0100, t.memRead 0x01FF, t.sp, t.pc)) = some (0x00, 0x00, 0xFE, 0x1234) := by
  decide

/-- V-JP-5. -/
theorem test_rts :
    (after (State.collaborate { State.reset with pc := 0x0300, sp := 0xFD } [(0x01FE, 0x02), (0x01FF, 0x02)]) [0x60]).map
      (fun t => (t.sp, t.pc)) = some (0xFF, 0x0203) := by
  decide

/-- V-JP-10. -/
theorem test_rts_wraps :
    (after (State.collaborate { State.reset with sp := 0xFD } [(0x01FE, 0xFF), (0x01FF, 0xFF)]) [0x60]).map
      (fun t => (t.sp, t.pc)) = some (0xFF, 0x0000) := by
  decide

/-- V-JP-7. -/
theorem test_brk :
    (after (State.collaborate { State.reset with pc := 0x0300, sp := 0xFF, p := 0x01 } [(0xFFFE, 0x00), (0xFFFF, 0x80)]) [0x00]).map
      (fun t => (t.memRead 0x01FF, t.memRead 0x01FE, t.memRead 0x01FD, t.sp, t.p, t.pc)) = some (0x03, 0x02, 0x11, 0xFC, 0x11, 0x8000) := by
  decide

/-- V-JP-9. -/
theorem test_brk_from_construction :
    (after { State.reset with sp := 0x00 } [0x00]).map
      (fun t => (t.memRead 0x0100, t.memRead 0x01FF, t.memRead 0x01FE, t.sp, t.p, t.pc)) = some (0x00, 0x02, 0x10, 0xFD, 0x10, 0x0000) := by
  decide

/-- V-JP-8. -/
theorem test_rti :
    (after (State.collaborate { State.reset with pc := 0x8000, sp := 0xFC } [(0x01FD, 0x11), (0x01FE, 0x02), (0x01FF, 0x03)]) [0x40]).map
      (fun t => (t.p, t.sp, t.pc)) = some (0x11, 0xFF, 0x0302) := by
  decide

/-- V-ST-2. -/
theorem test_pha_wraps :
    (after { State.reset with a := 0x11, sp := 0x00 } [0x48]).map
      (fun t => (t.memRead 0x0100, t.sp, t.pc)) = some (0x11, 0xFF, 0x0001) := by
  decide

/-- V-ST-3. -/
theorem test_php :
    (after { State.reset with p := 0xC3, sp := 0x00 } [0x08]).map
      (fun t => (t.memRead 0x0100, t.sp, t.p)) = some (0xC3, 0xFF, 0xC3) := by
  decide

/-- V-ST-4. -/
theorem test_pla :
    (after (State.collaborate { State.reset with sp := 0xFE } [(0x01FF, 0x80)]) [0x68]).map
      (fun t => (t.a, t.p, t.sp, t.pc)) = some (0x80, 0x80, 0xFF, 0x0001) := by
  decide

/-- V-ST-5. -/
theorem test_plp_wraps :
    (after (State.collaborate { State.reset with sp := 0xFF } [(0x0100, 0xFF)]) [0x28]).map
      (fun t => (t.p, t.sp, t.pc)) = some (0xFF, 0x00, 0x0001) := by
  decide

/-- V-TR-1. -/
theorem test_tax :
    (after { State.reset with a := 0x00, x := 0x55, p := 0x80 } [0xAA]).map
      (fun t => (t.x, t.p, t.pc)) = some (0x00, 0x02, 0x0001) := by
  decide

/-- V-TR-2. -/
theorem test_tay :
    (after { State.reset with a := 0x90 } [0xA8]).map
      (fun t => (t.y, t.p, t.pc)) = some (0x90, 0x80, 0x0001) := by
  decide

/-- V-TR-3. -/
theorem test_txa :
    (after { State.reset with a := 0x12, x := 0x00 } [0x8A]).map
      (fun t => (t.a, t.p, t.pc)) = some (0x00, 0x02, 0x0001) := by
  decide

/-- V-TR-4. -/
theorem test_tya :
    (after { State.reset with y := 0xFF } [0x98]).map
      (fun t => (t.a, t.p, t.pc)) = some (0xFF, 0x80, 0x0001) := by
  decide

/-- V-TR-5. -/
theorem test_txs :
    (after { State.reset with x := 0x00, sp := 0xFF, p := 0x80 } [0x9A]).map
      (fun t => (t.sp, t.p, t.pc)) = some (0x00, 0x80, 0x0001) := by
  decide

/-- V-TR-6. -/
theorem test_tsx :
    (after { State.reset with sp := 0x80 } [0xBA]).map
      (fun t => (t.x, t.p, t.pc)) = some (0x80, 0x80, 0x0001) := by
  decide

/-- V-FL-1. -/
theorem test_sec :
    (after { State.reset with p := 0x00 } [0x38]).map
      (fun t => (t.p, t.pc)) = some (0x01, 0x0001) := by
  decide

/-- V-FL-2. -/
theorem test_clc :
    (after { State.reset with p := 0xFF } [0x18]).map
      (fun t => (t.p, t.pc)) = some (0xFE, 0x0001) := by
  decide

/-- V-FL-3. -/
theorem test_sei :
    (after { State.reset with p := 0x00 } [0x78]).map
      (fun t => (t.p, t.pc)) = some (0x04, 0x0001) := by
  decide

/-- V-FL-4. -/
theorem test_cli :
    (after { State.reset with p := 0xFF } [0x58]).map
      (fun t => (t.p, t.pc)) = some (0xFB, 0x0001) := by
  decide

/-- V-FL-5. -/
theorem test_sed :
    (after { State.reset with p := 0x00 } [0xF8]).map
      (fun t => (t.p, t.pc)) = some (0x08, 0x0001) := by
  decide

/-- V-FL-6. -/
theorem test_cld :
    (after { State.reset with p := 0xFF } [0xD8]).map
      (fun t => (t.p, t.pc)) = some (0xF7, 0x0001) := by
  decide

/-- V-FL-7. -/
theorem test_clv :
    (after { State.reset with p := 0x40 } [0xB8]).map
      (fun t => (t.p, t.pc)) = some (0x00, 0x0001) := by
  decide

/-- V-NP-2. -/
theorem test_nop_absoluteX :
    (after { State.reset with pc := 0x0100 } [0x1C, 0x12, 0x34]).map
      (fun t => (t.pc, t.p)) = some (0x0103, 0x00) := by
  decide

/-- V-NP-3. -/
theorem test_nop_immediate :
    (after { State.reset with pc := 0x0100 } [0x80, 0xFF]).map
      (fun t => (t.pc, t.p)) = some (0x0102, 0x00) := by
  decide

/-- V-SP-1. -/
theorem test_stp :
    (after { State.reset with pc := 0x0100 } [0x02]).map
      (fun t => (t.runState, t.pc)) = some (RunState.halted, 0x0101) := by
  decide

/-- V-MP-2. -/
theorem test_lda_indexedIndirect :
    (after (State.collaborate { State.reset with pc := 0x0100, x := 0x01 } [(0x00FF, 0x34), (0x0000, 0x12), (0x1234, 0x56)]) [0xA1, 0xFE]).map
      (fun t => (t.a, t.p, t.pc)) = some (0x56, 0x00, 0x0102) := by
  decide

/-- V-MP-3. -/
theorem test_lda_indirectIndexed :
    (after (State.collaborate { State.reset with pc := 0x0100, y := 0xFF } [(0x0040, 0x01), (0x0041, 0xFF), (0x0000, 0x77)]) [0xB1, 0x40]).map
      (fun t => (t.a, t.p, t.pc)) = some (0x77, 0x00, 0x0102) := by
  decide

/-- V-LS-5. -/
theorem test_ldx_zeroPageY :
    (after (State.collaborate { State.reset with y := 0x20 } [(0x0010, 0xFF)]) [0xB6, 0xF0]).map
      (fun t => (t.x, t.p, t.pc)) = some (0xFF, 0x80, 0x0002) := by
  decide

/-- V-LS-6. -/
theorem test_ldy :
    (after { State.reset with p := 0x80 } [0xA0, 0x00]).map
      (fun t => (t.y, t.p, t.pc)) = some (0x00, 0x02, 0x0002) := by
  decide

/-- V-LS-8. -/
theorem test_sta_indirectIndexed :
    (after (State.collaborate { State.reset with a := 0x77, y := 0x10 } [(0x0040, 0x00), (0x0041, 0x02)]) [0x91, 0x40]).map
      (fun t => (t.memRead 0x0210, t.p, t.pc)) = some (0x77, 0x00, 0x0002) := by
  decide

/-- V-LS-9. -/
theorem test_sta_mirrored :
    (after { State.reset with a := 0x33 } [0x8D, 0x08, 0x07]).map
      (fun t => (t.memRead 0x0007, t.memRead 0x1007, t.pc)) = some (0x33, 0x33, 0x0003) := by
  decide

/-- V-LS-10. -/
theorem test_stx_zeroPageY :
    (after { State.reset with x := 0x42, y := 0x01 } [0x96, 0xFF]).map
      (fun t => (t.memRead 0x0000, t.p, t.pc)) = some (0x42, 0x00, 0x0002) := by
  decide

/-- V-LS-11. -/
theorem test_sty :
    (after { State.reset with y := 0x09 } [0x8C, 0x20, 0x01]).map
      (fun t => (t.memRead 0x2001, t.memRead 0x3FF9, t.pc)) = some (0x09, 0x09, 0x0003) := by
  decide

/-- The examples of rules R254 to R271: Faulted, the mnemonic and 0x0200 recorded, everything else kept. -/
theorem test_undocumented_mnemonics_fault :
    let s : State := State.launch 0x5A 0x01 0x02 0xFF 0x24 0x0200
    ∀ e ∈ [([0x07, 0x10], Undocumented.slo), ([0x27, 0x10], .rla), ([0x47, 0x10], .sre), ([0x67, 0x10], .rra),
           ([0xC7, 0x10], .dcp), ([0xFF, 0x00, 0x00], .isc), ([0x0B, 0x01], .anc), ([0x4B, 0x01], .alr),
           ([0x6B, 0x01], .arr), ([0x8B, 0x01], .xaa), ([0xA7, 0x10], .lax), ([0x87, 0x10], .sax),
           ([0x93, 0x10], .ahx), ([0x9B, 0x12, 0x34], .tas), ([0x9C, 0x12, 0x34], .shy),
           ([0x9E, 0x12, 0x34], .shx), ([0xBB, 0x12, 0x34], .las), ([0xCB, 0x01], .axs)],
      let placed := s.writeBytes s.pc e.1
      nextOf (step placed) = some { placed with runState := .faulted, faultRecord := some ⟨e.2, 0x0200⟩ } := by
  decide

/-- V-UD-3: ISC at the top of the address space. -/
theorem test_isc_at_the_top :
    (after { State.reset with pc := 0xFFFD } [0xFF, 0x00, 0x00]).map (fun t => (t.runState, t.faultRecord, t.pc)) =
      some (.faulted, some ⟨.isc, 0xFFFD⟩, 0xFFFD) := by
  decide

/-! ### Stopped states, the resolver, memory, the entry points and the interface -/

/-- V-SP-2 and V-UD-4: no further step. -/
theorem test_stopped_states_have_no_step :
    faultOf (step { State.reset with runState := .halted, pc := 0x0101 }) = some .halted ∧
      faultOf (step { State.reset with runState := .faulted, faultRecord := some ⟨.lax, 0x0100⟩, pc := 0x0100 }) =
        some .faulted := by
  decide

/-- V-MP-4, V-MP-5 and the example of rule R99: wraps of the indexed modes. -/
theorem test_effective_addresses :
    State.effectiveAddress { State.reset with x := 0xFF } (.absoluteX 0x1134) = 0x1233 ∧
      State.effectiveAddress { State.reset with x := 0x10 } (.zeroPageX 0xFF) = 0x000F ∧
      State.effectiveAddress { State.reset with x := 0x20 } (.zeroPageX 0xF0) = 0x0010 ∧
      State.effectiveAddress { State.reset with y := 0x01 } (.absoluteY 0xFFFF) = 0x0000 := by
  decide

/-- V-LS-3: an indexed-indirect pointer. -/
theorem test_indexed_indirect :
    State.effectiveAddress (State.collaborate { State.reset with x := 0x04 } [(0x0024, 0x00), (0x0025, 0x03)])
      (.indexedIndirect 0x20) = 0x0300 := by
  decide

/-- Rule R107: the resolver's value for a branch is pc0 + offset, the length not added. -/
theorem test_resolve :
    State.resolve { State.reset with pc := 0x0010 } (.beq 0xFE) = .address 0x000E ∧
      State.resolve State.reset (.lda (.immediate 0x3C)) = .literal 0x3C ∧ State.resolve State.reset .inx = .none ∧
      State.operandValue (State.collaborate State.reset [(0x0234, 0x66)]) (.lda (.memory (.absolute 0x1234))) = some 0x66 := by
  decide

/-- V-L1-1, V-MP-1: the mirror map. -/
theorem test_mirrors :
    [0x0805, 0x1005, 0x1805].map (State.reset.memWrite 0x0005 0xAB).memRead = [0xAB, 0xAB, 0xAB] ∧
      [0x07FF, 0x1FFF].map (State.reset.memWrite 0x17FF 0x11).memRead = [0x11, 0x11] ∧
      [0x200B, 0x2FFB, 0x3FFB].map (State.reset.memWrite 0x2003 0x5C).memRead = [0x5C, 0x5C, 0x5C] ∧
      [0x0000, 0x4000, 0x2000].map (State.reset.memWrite 0x4000 0x01).memRead = [0x00, 0x01, 0x00] := by
  decide

/-- Writing the empty byte removes the entry; entries stay in rising order of cells. -/
theorem test_canonical_memory :
    (State.collaborate State.reset [(0x4000, 0x01), (0x0805, 0xAB), (0x2003, 0x5C), (0x3FFB, 0x00)]).mem =
      [(0x0005, 0xAB), (0x4000, 0x01)] := by
  decide

/-- V-MP-6: a buffer-mode step reads no instruction byte from memory. -/
theorem test_stepBuffer :
    (nextOf (stepBuffer [0xA9, 0x01] { State.reset with pc := 0x0300 })).map (fun t => (t.a, t.pc)) = some (0x01, 0x0302) ∧
      refusalOf (stepBuffer [0xA9] State.reset) = some (.undecoded (.truncated 0xA9)) := by
  decide

/-- Rules R301 and R72: a load at address 0, and one step of a run with the collaborator writing after it. -/
theorem test_load_and_run :
    (nextOf (State.reset.loadProgram [0xA9, 0x3C, 0x02])).map (·.mem) = some [(0, 0xA9), (1, 0x3C), (2, 0x02)] ∧
      (run 0x0000 [[(0x0805, 0xAB)]] (State.reset.writeBytes 0 [0xA9, 0x3C])).mem = [(0, 0xA9), (1, 0x3C), (5, 0xAB)] ∧
      (runAlone 0x0000 2 (State.reset.writeBytes 0 [0x02])).pc = 0x0001 := by
  decide

/-- Rules R144 and R277: the codes of the interface. -/
theorem test_codes :
    [RunState.running, .halted, .faulted].map RunState.code = [0, 1, 2] ∧
      [Undocumented.slo, .lax, .sax, .axs].map mnemonicCode = [1, 11, 12, 18] := by
  decide

/-- Rule R108's forms, as the listings of 95_test_vectors.md section 3 write them. -/
theorem test_assembly :
    assembly (.sta (.absoluteX 0x0200)) = "STA $0200,X" ∧ assembly (.lda (.immediate 0x3C)) = "LDA #$3C" ∧
      assembly (.jmp (.indirect 0x0300)) = "JMP ($0300)" ∧ assembly .txs = "TXS" ∧
      assembly (.lax (.memory (.zeroPage 0x10))) = "LAX $10" ∧ offsetTo 0x0007 0x0002 = some 0xF9 ∧
      offsetTo 0x0000 0x0082 = none := by
  decide
/-! ### Witnesses: for each statement with hypotheses, a concrete state and operands that meet them together -/

theorem exists_next {r : Result} (h : (nextOf r).isSome = true) : ∃ t, r = .next t := by
  cases r with
  | next t => exact ⟨t, rfl⟩
  | fault _ => nomatch h
  | refused _ => nomatch h

/-- A state with every kind of contents: SP at its wrap, I and U set, memory in three regions; the byte at PC is BRK's. -/
def busy : State :=
  (State.launch 0x5A 0x01 0x02 0x00 0x24 0x0300).collaborate
    [(0x0010, 0x80), (0x0100, 0x12), (0x0102, 0x34), (0x2003, 0x5C), (0x4000, 0x77), (0xFFFF, 0x12)]

/-- A state whose next instruction wraps around the top of the address space. -/
def atTop : State := { State.reset with pc := 0xFFFF }.writeBytes 0xFFFF [0xAD, 0x12, 0x34]

theorem busy_inv : busy.Inv := ⟨by decide, by decide⟩

theorem atTop_inv : atTop.Inv := ⟨by decide, by decide⟩

theorem witness_StepKeepsInvariant :
    busy.Inv ∧ (∃ t, step busy = .next t) ∧ (∃ t, stepBuffer [0xA7, 0x10] busy = .next t) ∧ ∃ t, stepBuffer [0x02] busy = .next t :=
  ⟨busy_inv, exists_next (by decide), exists_next (by decide), exists_next (by decide)⟩

theorem witness_RunKeepsInvariant : busy.Inv ∧ ∃ t, busy.loadProgram [0xA9, 0x3C] = .next t :=
  ⟨busy_inv, exists_next (by decide)⟩

theorem witness_DecodeOfEncode : (Instr.sta (.absoluteX 0xFFFF)).wellFormed = true ∧ (Instr.nop 0xFA .implied).wellFormed = true := by
  decide

theorem witness_EncodeOfDecode : decode [0xFF, 0xFF, 0xFF, 0x01] = .ok (.isc (.absoluteX 0xFFFF), [0x01]) := rfl

/-- Both clauses, at the ends of the three regions. -/
theorem witness_MirrorGroupsShareOneCell :
    busy.Inv ∧ MirrorGroup 0x07FF 0x1FFF ∧ MirrorGroup 0x0000 0x1800 ∧ MirrorGroup 0x2000 0x3FF8 ∧ MirrorGroup 0x2007 0x3FFF ∧
      MirrorGroup 0x4000 0x4000 ∧ MirrorGroup 0xFFFF 0xFFFF ∧ ¬ MirrorGroup 0x07FF 0x0800 ∧ ¬ MirrorGroup 0x0000 0x2000 ∧
      ¬ MirrorGroup 0x2000 0x4000 ∧ ¬ MirrorGroup 0x3FFF 0x4000 ∧ ¬ MirrorGroup 0x4000 0x6000 := by
  refine ⟨busy_inv, ?_, ?_, ?_, ?_, ?_, ?_, ?_, ?_, ?_, ?_, ?_⟩ <;> unfold MirrorGroup <;> decide

theorem witness_CanonicalMemoriesWithEqualBytesAreEqual :
    let m := ((State.reset.memWrite 0x0005 0x01).memWrite 0xFFFF 0x02).mem
    let n := ((State.reset.memWrite 0xFFFF 0x02).memWrite 0x1805 0x01).mem
    m.wf ∧ n.wf ∧ ∀ a : Addr, m.read (cellOf a) = n.read (cellOf a) :=
  ⟨by decide, by decide, fun _ => rfl⟩

theorem witness_PushAndPull : busy.Inv ∧ busy.sp = 0x00 := ⟨busy_inv, rfl⟩

/-- A write that changes A, a write of A's own value, and an accumulator shift. -/
theorem witness_EveryWriteOfASetsZeroAndNegative :
    (∃ t, exec (.lda (.immediate 0x00)) busy = .next t ∧ t.a ≠ busy.a) ∧
      (∃ t, exec .tax busy = .next t ∧ t.a = busy.a ∧ Instr.tax.mnemonic ∈ [Mnemonic.tax, .tay]) ∧
      ∃ t, exec (.asl .accumulator) busy = .next t ∧ (Instr.asl .accumulator).mnemonic ∈ [Mnemonic.asl, .lsr, .rol, .ror] ∧
        (Instr.asl .accumulator).mode = .implied :=
  ⟨⟨_, rfl, by decide⟩, ⟨_, rfl, rfl, by decide⟩, _, rfl, by decide, rfl⟩

/-- Each clause, with the largest operand. -/
theorem witness_WordOperandResolution :
    (decode [0x6D, 0xFF, 0xFF] = .ok (.adc (.memory (.absolute 0xFFFF)), []) ∧ decodeMode 0x6D = .absolute) ∧
      (decode [0x7D, 0xFF, 0xFF] = .ok (.adc (.memory (.absoluteX 0xFFFF)), []) ∧ decodeMode 0x7D = .absoluteX) ∧
      (decode [0x79, 0xFF, 0xFF] = .ok (.adc (.memory (.absoluteY 0xFFFF)), []) ∧ decodeMode 0x79 = .absoluteY) ∧
      (decode [0x6C, 0xFF, 0xFF] = .ok (.jmp (.indirect 0xFFFF), []) ∧ decodeMode 0x6C = .indirect) ∧
      (decode [0xF0, 0x80, 0x00] = .ok (.beq 0x80, [0x00]) ∧ decodeMode 0xF0 = .relative) :=
  ⟨⟨rfl, rfl⟩, ⟨rfl, rfl⟩, ⟨rfl, rfl⟩, ⟨rfl, rfl⟩, ⟨rfl, rfl⟩⟩

theorem witness_StepRunsDecodedInstruction :
    atTop.runState = .running ∧
      decode [atTop.memRead atTop.pc, atTop.memRead (atTop.pc + 1), atTop.memRead (atTop.pc + 2)] =
        .ok (.lda (.memory (.absolute 0x1234)), []) :=
  ⟨rfl, rfl⟩

theorem witness_RunningStatesAlwaysStep : busy.runState = .running := rfl

theorem witness_StoppedStatesHaveNoStep :
    (busy.setRunState .halted).runState = .halted ∧ (busy.raiseUnimplemented .lax).runState = .faulted ∧
      (busy.raiseUnimplemented .lax).runState ≠ .running :=
  ⟨rfl, rfl, nofun⟩

/-- Each clause: STP, an undocumented mnemonic, and neither. -/
theorem witness_RunStateChangesOnlyByStpAndUndocumented :
    let stop := busy.writeBytes busy.pc [0x02]
    let undocumented := busy.writeBytes busy.pc [0xA7, 0x10]
    ((∃ t, step stop = .next t) ∧ decodeMnemonic (stop.memRead stop.pc) = .stp) ∧
      ((∃ t, step undocumented = .next t) ∧ decodeMnemonic (undocumented.memRead undocumented.pc) = .undocumented .lax) ∧
      ∃ t, step busy = .next t ∧ t.runState ≠ .faulted :=
  ⟨⟨exists_next (by decide), by decide⟩, ⟨exists_next (by decide), by decide⟩, _, rfl, by decide⟩

theorem witness_BufferAndMemoryModesAgree :
    let buf : List Byte := [0xAD, 0x12, 0x34]
    buf.length = 1 + operandLength (decodeMode (atTop.memRead atTop.pc)) ∧
      ∀ k, k < buf.length → buf[k]? = some (atTop.memRead (atTop.pc + BitVec.ofNat 16 k)) := by
  decide

/-- Both clauses, one byte apart. -/
theorem witness_ShortBuffersAreRefused :
    busy.runState = .running ∧ [(0x12 : Byte)].length < operandLength (decodeMode 0xAD) ∧
      operandLength (decodeMode 0xAD) ≤ [(0x12 : Byte), 0x34].length := by
  decide

theorem witness_PlacedWordIsRunNext :
    let s : State := { State.reset with pc := 0x1FFF }
    s.Inv ∧ s.runState = .running ∧ decodeTableWord 24 0x3412AD = some (.lda (.memory (.absolute 0x1234))) :=
  ⟨⟨by decide, by decide⟩, rfl, by decide⟩

/-- Each clause: the longest load and one byte more; a byte that no later one hides, and byte 2048, which hides byte 0; an address
outside a load. -/
theorem witness_ProgramLoadPlacesBytes :
    busy.Inv ∧ (List.replicate 65536 (0xEA : Byte)).length ≤ 65536 ∧ 65536 < (List.replicate 65537 (0xEA : Byte)).length ∧
      ((List.replicate 2049 (0xEA : Byte))[2048]? = some 0xEA ∧ MirrorGroup (BitVec.ofNat 16 2048) 0x0000 ∧
        ∀ j, 2048 < j → j < (List.replicate 2049 (0xEA : Byte)).length → ¬ MirrorGroup (BitVec.ofNat 16 j) 0x0000) ∧
      ∀ k, k < [(0xEA : Byte)].length → ¬ MirrorGroup (BitVec.ofNat 16 k) 0x0001 := by
  simp only [List.length_replicate]
  refine ⟨busy_inv, by decide, by decide, ⟨by rw [List.getElem?_replicate, if_pos (by decide)], ?_, fun j h1 h2 => by omega⟩, ?_⟩ <;> unfold MirrorGroup <;> decide

theorem witness_DefaultAdvance :
    (Instr.stp 0x02).mnemonic ∉ [Mnemonic.bcc, .bcs, .beq, .bmi, .bne, .bpl, .bvc, .bvs, .jmp, .jsr, .rts, .brk, .rti] ∧
      ∀ u, (Instr.stp 0x02).mnemonic ≠ .undocumented u :=
  ⟨by decide, nofun⟩

/-- Each clause: an instruction that does change that register, or memory. -/
theorem witness_OnlyListedInstructionsWriteRegistersAndMemory :
    (∃ t, exec .inx busy = .next t ∧ t.x ≠ busy.x) ∧ (∃ t, exec .tay busy = .next t ∧ t.y ≠ busy.y) ∧
      (∃ t, exec .rti busy = .next t ∧ t.sp ≠ busy.sp) ∧ (∃ t, exec .txa busy = .next t ∧ t.a ≠ busy.a) ∧
      ∃ t, exec .brk busy = .next t ∧ ¬ SameBytes busy t :=
  ⟨⟨_, rfl, by decide⟩, ⟨_, rfl, by decide⟩, ⟨_, rfl, by decide⟩, ⟨_, rfl, by decide⟩, _, rfl,
    fun h => absurd (h 0x0100) (by decide)⟩

/-- Each clause: an instruction that does change that flag. -/
theorem witness_OnlyListedInstructionsWriteFlags :
    (∃ t, exec .sec busy = .next t ∧ t.flag .c ≠ busy.flag .c) ∧
      (∃ t, exec (.bit (.absolute 0x4000)) busy = .next t ∧ t.flag .v ≠ busy.flag .v) ∧
      (∃ t, exec .cli busy = .next t ∧ t.flag .i ≠ busy.flag .i) ∧ (∃ t, exec .sed busy = .next t ∧ t.flag .d ≠ busy.flag .d) ∧
      (∃ t, exec .brk busy = .next t ∧ t.flag .b ≠ busy.flag .b) ∧ (∃ t, exec .plp busy = .next t ∧ t.flag .u ≠ busy.flag .u) ∧
      ∃ t, exec (.lda (.immediate 0x00)) busy = .next t ∧ (t.flag .z ≠ busy.flag .z ∨ t.flag .n ≠ busy.flag .n) :=
  ⟨⟨_, rfl, by decide⟩, ⟨_, rfl, by decide⟩, ⟨_, rfl, by decide⟩, ⟨_, rfl, by decide⟩, ⟨_, rfl, by decide⟩, ⟨_, rfl, by decide⟩,
    _, rfl, by decide⟩

theorem witness_InterruptBreakAndUnusedBitsHaveNoEffect :
    (Instr.adc (.immediate 0x01)).mnemonic ≠ .php ∧ (Instr.adc (.immediate 0x01)).mnemonic ≠ .brk ∧
      (∀ f, f ∉ [Flag.i, .b, .u] → flagOf 0x10 f = busy.flag f) ∧ (0x10 : Byte) ≠ busy.p :=
  ⟨by decide, by decide, fun f => by cases f <;> decide, by decide⟩

theorem witness_DecimalModeAffectsOnlyAdcAndSbc :
    (Instr.cmp (.immediate 0x01)).mnemonic ∉ [Mnemonic.adc, .sbc, .php, .brk] ∧
      (∀ f, f ≠ .d → flagOf 0x2C f = busy.flag f) ∧ (0x2C : Byte) ≠ busy.p :=
  ⟨by decide, fun f => by cases f <;> decide, by decide⟩

theorem witness_BinaryAddAndSubtractFlagsAreStandard : busy.flag .d = false := by decide

theorem witness_DecimalAddOfValidDigits :
    let s : State := { busy with a := 0x99, p := 0x09 }
    let o : ReadOperand := .immediate 0x00
    s.flag .d = true ∧ s.a.toNat / 16 ≤ 9 ∧ s.a.toNat % 16 ≤ 9 ∧ (s.load o).toNat / 16 ≤ 9 ∧ (s.load o).toNat % 16 ≤ 9 := by
  decide

/-- The clause for sums below 100, at 99. -/
theorem witness_DecimalAddOfValidDigits_sum :
    let s : State := { busy with a := 0x98, p := 0x09 }
    s.flag .d = true ∧ s.a.toNat / 16 * 10 + s.a.toNat % 16 + 0 + (s.flag .c).toNat < 100 := by
  decide

theorem witness_MemoryShiftResults : busy.Inv := busy_inv

theorem witness_MemoryIncrementAndDecrement : busy.Inv := busy_inv

/-- Both clauses, for a branch on carry clear and one on carry set. -/
theorem witness_BranchResults : busy.flag .c = false ∧ busy.flag .c ≠ true := by decide

theorem witness_JsrResult : busy.Inv ∧ busy.sp = 0x00 := ⟨busy_inv, rfl⟩

theorem witness_RtsResumesAfterJsr :
    ∃ t u, busy.Inv ∧ exec (.jsr 0x1234) busy = .next t ∧ u.sp = t.sp ∧ SameBytes t u ∧ u.a ≠ t.a :=
  let t := (busy.pushWord (busy.pc + 2)).setPC 0x1234
  ⟨t, { t with a := 0x00 }, busy_inv, rfl, rfl, fun _ => rfl, show (0x00 : Byte) ≠ 0x5A by decide⟩

theorem witness_BrkTakesTheTrap : busy.Inv ∧ busy.sp = 0x00 := ⟨busy_inv, rfl⟩

theorem witness_RtiResumesAfterBrk :
    ∃ t u, busy.Inv ∧ exec .brk busy = .next t ∧ u.sp = t.sp ∧ SameBytes t u ∧ u.p ≠ t.p :=
  ⟨busy.enterTrap, { busy.enterTrap with p := 0x00 }, busy_inv, rfl, rfl, fun _ => rfl, by decide⟩

theorem witness_PhaPushesA : busy.Inv := busy_inv

theorem witness_PhpPushesPAsHeld : busy.Inv := busy_inv

theorem witness_StoreResults : busy.Inv ∧ MirrorGroup (busy.effectiveAddress (.absoluteX 0x17FE)) 0x1FFF := by
  refine ⟨busy_inv, ?_⟩
  unfold MirrorGroup
  decide

theorem witness_UndocumentedMnemonicsFault : (Instr.axs 0x00).mnemonic = .undocumented .axs := rfl

end Sys2Proof.Tests
end

namespace Sys2Proof.Machine

/-! ### The stack protocol (rules R45, R46) -/

/-- The address of a stack cell as the number rule R35 gives. -/
theorem ofNat_eq_stackAddr (sp : Byte) : BitVec.ofNat 16 (0x0100 + sp.toNat) = stackAddr sp := by
  apply BitVec.eq_of_toNat_eq
  have hsp := sp.isLt
  rw [toNat_stackAddr, BitVec.toNat_ofNat]
  omega

/-- The stack cell a push stores into reads the pushed byte. -/
theorem State.push_memRead_stackAddr (s : State) (v : Byte) (h : s.mem.wf) :
    (s.push v).memRead (stackAddr s.sp) = v := by
  rw [s.push_memRead, s.memRead_memWrite _ _ _ h, if_pos rfl]

/-- A push stores into the mirror group of the stack cell alone. -/
theorem State.push_sameBytesOutside (s : State) (v : Byte) : SameBytesOutside [stackAddr s.sp] s (s.push v) :=
  sameBytesOutside_of_mem (s.push_mem v)

/-- Of registers and flags, a push changes SP alone. -/
theorem State.push_changesOnly (s : State) (v : Byte) : ChangesOnly [.sp] [] s (s.push v) :=
  changesOnly_of (by simp) (by simp) (by simp) (by simp) (by simp) rfl rfl

/-- Of registers and flags, a pull changes SP alone. -/
theorem State.pull_changesOnly (s : State) : ChangesOnly [.sp] [] s s.pull :=
  changesOnly_of (by simp) (by simp) (by simp) (by simp) (by simp) rfl rfl

/-- A pull after a push restores SP. -/
theorem State.pull_push_sp (s : State) (v : Byte) : (s.push v).pull.sp = s.sp := by simp

/-- A pull after a push returns the pushed byte. -/
theorem State.pulled_push (s : State) (v : Byte) (h : s.mem.wf) : (s.push v).pulled = v := by
  calc (s.push v).pulled
      = (s.push v).memRead (stackAddr (s.push v).pull.sp) := rfl
    _ = (s.push v).memRead (stackAddr s.sp) := by rw [s.pull_push_sp]
    _ = v := s.push_memRead_stackAddr v h

/-- Settles O11: Push is one memory write at the stack cell, and Pull reads the cell Push wrote because its increment takes
back Push's decrement. -/
theorem pushAndPull : Obligations.PushAndPull := by
  intro s v ⟨hwf, _⟩ cell
  have hcell : ∀ sp, cell sp = stackAddr sp := ofNat_eq_stackAddr
  simp only [hcell]
  refine ⟨⟨s.push_memRead_stackAddr v hwf, ?_, s.push_sameBytesOutside v, s.push_changesOnly v, rfl⟩,
    ⟨?_, rfl, fun _ => rfl, s.pull_changesOnly, rfl⟩, s.pulled_push v hwf, s.pull_push_sp v⟩
  · rw [State.push_sp]
    bv_omega
  · rw [State.pull_sp]
    bv_omega

/-! ### The writes of A (rules R31, R40) -/

/-- The instructions whose rule writes A: those that always do, and the accumulator forms of the shifts and rotates. -/
def WritesA (i : Instr) : Prop :=
  i.mnemonic ∈ [Mnemonic.lda, .adc, .sbc, .and, .ora, .eor, .pla, .txa, .tya, .tax, .tay] ∨
    i.mnemonic ∈ [Mnemonic.asl, .lsr, .rol, .ror] ∧ i.mode = .implied

/-- No memory operand has the mode of the accumulator form. -/
@[simp] theorem memOperand_mode_ne_implied (m : MemOperand) : m.mode ≠ .implied := by
  cases m <;> simp [MemOperand.mode]

/-- After a write of A, Z and N are those of the value written. -/
theorem State.zNof_writeA (s : State) (v : Byte) : ZNof v (s.writeA v) := by
  simp [ZNof]

/-- Of registers and flags, a write of A changes A, Z and N alone. -/
theorem State.writeA_changesOnly (s : State) (v : Byte) : ChangesOnly [.a] [.z, .n] s (s.writeA v) := by
  refine changesOnly_of (by simp) (fun _ => rfl) (fun _ => rfl) (fun _ => rfl) (fun f hf => ?_) rfl rfl
  obtain ⟨hz, hn⟩ : f ≠ .z ∧ f ≠ .n := by simpa using hf
  rw [State.writeA_flag, if_neg hn, if_neg hz]

/-- Z and N are those of A after an instruction that ends in a write of A and the default advance. -/
theorem State.zNof_writeA_advance (s : State) (v : Byte) (md : Mode) :
    ZNof ((s.writeA v).advance md).a ((s.writeA v).advance md) := s.zNof_writeA v

/-- A branch keeps A, taken or not. -/
@[simp] theorem State.branchIf_a (s : State) (cond : Bool) (b1 : Byte) : (s.branchIf cond b1).a = s.a := by
  rw [State.branchIf_eq, State.setPC_a]

/-- What an instruction can do to A: it is one that writes A, and leaves Z and N those of A, or it is none of these and
keeps A. -/
theorem exec_a_cases {i : Instr} {s t : State} (h : exec i s = .next t) :
    WritesA i ∧ ZNof t.a t ∨ ¬ WritesA i ∧ t.a = s.a := by
  cases i with
  | lda | adc | sbc | and | ora | eor | pla | txa | tya | tax | tay =>
    obtain rfl := Host.Outcome.next.inj h
    exact .inl ⟨by simp [WritesA, Instr.mnemonic], State.zNof_writeA_advance _ _ _⟩
  | asl o | lsr o | rol o | ror o =>
    obtain rfl := Host.Outcome.next.inj h
    cases o with
    | accumulator =>
      exact .inl ⟨by simp [WritesA, Instr.mnemonic, Instr.mode, ShiftOperand.mode], State.zNof_writeA_advance _ _ _⟩
    | memory m => exact .inr ⟨by simp [WritesA, Instr.mnemonic, Instr.mode, ShiftOperand.mode], rfl⟩
  | bcc | bcs | beq | bmi | bne | bpl | bvc | bvs =>
    obtain rfl := Host.Outcome.next.inj h
    exact .inr ⟨by simp [WritesA, Instr.mnemonic], State.branchIf_a _ _ _⟩
  | brk =>
    obtain rfl := Host.Outcome.next.inj h
    exact .inr ⟨by simp [WritesA, Instr.mnemonic], s.enterTrap_a⟩
  | _ =>
    obtain rfl := Host.Outcome.next.inj h
    exact .inr ⟨by simp [WritesA, Instr.mnemonic], rfl⟩

/-- Settles O12: a write of A by its definition, and the instructions by what each can do to A. -/
theorem everyWriteOfASetsZeroAndNegative : Obligations.EveryWriteOfASetsZeroAndNegative := by
  refine ⟨fun s v => ⟨rfl, s.zNof_writeA v, s.writeA_changesOnly v, fun _ => rfl, rfl⟩, fun i s t h => ?_⟩
  obtain ⟨hw, hzn⟩ | ⟨hw, ha⟩ := exec_a_cases h
  · exact ⟨fun _ => hzn, fun _ => hw⟩
  · exact ⟨fun hw' => absurd hw' hw, fun hne => absurd ha hne⟩

end Sys2Proof.Machine

namespace Sys2Proof.Machine

/-! ### The addressing resolver (rules R97 to R105) -/

/-- A byte and its address in the zero page are the same number (rule R8). -/
@[simp] theorem toNat_zeroPageAddr (b : Byte) : (zeroPageAddr b).toNat = b.toNat :=
  BitVec.toNat_setWidth_of_le (by decide)

/-- A number wrapped within page 0 is the zero-page address of the byte it wraps to. -/
theorem ofNat_mod_eq_zeroPageAddr (n : Nat) : BitVec.ofNat 16 (n % 256) = zeroPageAddr (BitVec.ofNat 8 n) := by
  apply BitVec.eq_of_toNat_eq
  rw [toNat_zeroPageAddr, BitVec.toNat_ofNat, BitVec.toNat_ofNat]
  omega

/-- The value of a word held in memory (rule R65 (a)). -/
theorem State.toNat_readWord (s : State) (lo hi : Addr) :
    (s.readWord lo hi).toNat = (s.memRead hi).toNat * 256 + (s.memRead lo).toNat :=
  toNat_wordOf _ _

/-- The value of an address indexed by a byte, modulo 65536. -/
theorem toNat_add_index (a : Addr) (index : Byte) : (a + index.setWidth 16).toNat = (a.toNat + index.toNat) % 65536 := by
  rw [BitVec.toNat_add, BitVec.toNat_setWidth_of_le (by decide)]

/-- The value of a zero-page address indexed by a byte, modulo 256 (rules R99, R100). -/
theorem toNat_zeroPageAddr_add (b index : Byte) : (zeroPageAddr (b + index)).toNat = (b.toNat + index.toNat) % 256 := by
  rw [toNat_zeroPageAddr, BitVec.toNat_add]

/-- IndexedIndirect's pointer is two bytes of page 0, each wrapped on its own (rule R104). -/
theorem State.toNat_effectiveAddress_indexedIndirect (s : State) (b1 : Byte) :
    (s.effectiveAddress (.indexedIndirect b1)).toNat =
      (s.memRead (zeroPageAddr (b1 + s.x + 1))).toNat * 256 + (s.memRead (zeroPageAddr (b1 + s.x))).toNat :=
  s.toNat_readWord _ _

/-- IndirectIndexed adds Y to the word its page-0 pointer holds (rule R105). -/
theorem State.toNat_effectiveAddress_indirectIndexed (s : State) (b1 : Byte) :
    (s.effectiveAddress (.indirectIndexed b1)).toNat =
      ((s.memRead (zeroPageAddr (b1 + 1))).toNat * 256 + (s.memRead (zeroPageAddr b1)).toNat + s.y.toNat) % 65536 := by
  rw [State.effectiveAddress, toNat_add_index, s.toNat_readWord]

/-- Settles O13: a mode without a pointer by the value of its address; a pointer's bytes because wrapping a number within
page 0 is adding bytes. -/
theorem byteOperandResolution : Obligations.ByteOperandResolution := by
  intro s b1 at0
  have hat0 : ∀ n, at0 n = (s.memRead (zeroPageAddr (BitVec.ofNat 8 n))).toNat := fun n =>
    congrArg (fun a => (s.memRead a).toNat) (ofNat_mod_eq_zeroPageAddr n)
  refine ⟨rfl, toNat_zeroPageAddr b1, toNat_zeroPageAddr_add b1 s.x, toNat_zeroPageAddr_add b1 s.y, ?_, ?_, fun _ => rfl⟩
  · rw [s.toNat_effectiveAddress_indexedIndirect]
    simp [hat0, BitVec.ofNat_add]
  · rw [s.toNat_effectiveAddress_indirectIndexed]
    simp [hat0, BitVec.ofNat_add]

end Sys2Proof.Machine

namespace Sys2Proof

/-! ### Decoding from three bytes (rules R90, R133) -/

/-- Every opcode is put together with its entry's mnemonic and mode, whatever the operand bytes (rule R91). -/
theorem assembleOpcode_ok_entry (b0 b1 b2 : Byte) :
    ∃ i, assembleOpcode b0 b1 b2 = .ok i ∧ i.mnemonic = decodeMnemonic b0 ∧ i.mode = decodeMode b0 := by
  obtain ⟨i, hi⟩ := assembleOpcode_ok b0 b1 b2
  exact ⟨i, hi, assemble_entry (assemble_of_ok hi)⟩

/-- Two bytes after the opcode are enough for every mode: decoding puts the opcode together with some operand bytes and
leaves the bytes after the instruction (rule R90). -/
theorem decode_eq_assembleOpcode_map (b0 b1 b2 : Byte) (rest : List Byte) :
    ∃ c1 c2, decode (b0 :: b1 :: b2 :: rest) =
      (assembleOpcode b0 c1 c2).map (·, (b0 :: b1 :: b2 :: rest).drop (1 + operandLength (decodeMode b0))) := by
  obtain hlen | hlen | hlen := operandLength_cases (decodeMode b0)
  · exact ⟨0, 0, by simp [decode, hlen]⟩
  · exact ⟨b1, 0, by simp [decode, hlen]⟩
  · exact ⟨b1, b2, by simp [decode, hlen]⟩

/-- Settles O8: decoding three bytes puts the opcode together with the operand bytes its mode takes, and no opcode is
rejected there. -/
theorem decodeNeverFails : Obligations.DecodeNeverFails := by
  intro b0 b1 b2 rest
  obtain ⟨c1, c2, hdecode⟩ := decode_eq_assembleOpcode_map b0 b1 b2 rest
  obtain ⟨i, hi, hentry⟩ := assembleOpcode_ok_entry b0 c1 c2
  exact ⟨i, by rw [hdecode, hi]; rfl, hentry⟩

end Sys2Proof

namespace Sys2Proof.Machine

/-! ### Bitwise logic (rules R170 to R172) -/

/-- The default advance writes PC alone, so what may change before it is what may change with it. -/
theorem ChangesOnly.advance {regs : List Reg} {flags : List Flag} {s t : State} (h : ChangesOnly regs flags s t)
    (md : Mode) : ChangesOnly regs flags s (t.advance md) := h

/-- A write of A and the default advance change A, Z, N and PC and nothing else. -/
theorem State.writeA_advance_frame (s : State) (v : Byte) (md : Mode) :
    ChangesOnly [.a] [.z, .n] s ((s.writeA v).advance md) ∧ SameBytes s ((s.writeA v).advance md) ∧
      Advanced md s ((s.writeA v).advance md) :=
  ⟨(s.writeA_changesOnly v).advance md, sameBytes_of_mem rfl, advanced_advance md rfl⟩

/-- Settles O32: each of the three is one write of A and the default advance, whatever the operand form. -/
theorem logicResults : Obligations.LogicResults := by
  intro o s e he
  have hexec : exec e.1 s = .next ((s.writeA e.2).advance o.mode) := by
    obtain rfl | rfl | rfl : e = (.and o, s.a &&& s.load o) ∨ e = (.ora o, s.a ||| s.load o) ∨ e = (.eor o, s.a ^^^ s.load o) := by
      simpa using he
    all_goals rfl
  exact ⟨_, hexec, rfl, s.zNof_writeA_advance e.2 o.mode, s.writeA_advance_frame e.2 o.mode⟩

end Sys2Proof.Machine

namespace Sys2Proof.Machine

/-! ### Increment and decrement (rules R188 to R193) -/

/-- Subtracting 1 from a byte wraps modulo 256. -/
theorem toNat_byte_sub_one (v : Byte) : (v - 1).toNat = (v.toNat + 255) % 256 := by
  bv_omega

/-- SetZN leaves Z and N those of its value (rule R41). -/
theorem State.zNof_setZN (s : State) (v : Byte) : ZNof v (s.setZN v) := by
  simp [ZNof]

/-- SetZN after a change of registers alone adds Z and N to what may change. -/
theorem ChangesOnly.setZN {regs : List Reg} {s t : State} (h : ChangesOnly regs [] s t) (v : Byte) :
    ChangesOnly regs [.z, .n] s (t.setZN v) := by
  obtain ⟨hregs, hflags, hrun, hrecord⟩ := h
  refine ⟨hregs, fun f hf => ?_, hrun, hrecord⟩
  obtain ⟨hz, hn⟩ : f ≠ .z ∧ f ≠ .n := by simpa using hf
  rw [State.setZN_flag, if_neg hn, if_neg hz]
  exact hflags f (by simp)

/-- Of registers and flags, a write of X changes X alone. -/
theorem State.setX_changesOnly (s : State) (v : Byte) : ChangesOnly [.x] [] s (s.setX v) :=
  changesOnly_of (by simp) (by simp) (by simp) (by simp) (by simp) rfl rfl

/-- Of registers and flags, a write of Y changes Y alone. -/
theorem State.setY_changesOnly (s : State) (v : Byte) : ChangesOnly [.y] [] s (s.setY v) :=
  changesOnly_of (by simp) (by simp) (by simp) (by simp) (by simp) rfl rfl

/-- A memory write changes no register and no flag. -/
theorem State.memWrite_changesOnly (s : State) (a : Addr) (v : Byte) : ChangesOnly [] [] s (s.memWrite a v) :=
  changesOnly_of (by simp) (by simp) (by simp) (by simp) (by simp) rfl rfl

/-- A write of X with SetZN and the default advance: Z and N are those of the value, and only X, Z, N and PC change. -/
theorem State.setX_setZN_advance_frame (s : State) (v : Byte) (md : Mode) :
    ZNof v (((s.setX v).setZN v).advance md) ∧ ChangesOnly [.x] [.z, .n] s (((s.setX v).setZN v).advance md) ∧
      SameBytes s (((s.setX v).setZN v).advance md) ∧ Advanced md s (((s.setX v).setZN v).advance md) :=
  ⟨(s.setX v).zNof_setZN v, ((s.setX_changesOnly v).setZN v).advance md, sameBytes_of_mem rfl, advanced_advance md rfl⟩

/-- A write of Y with SetZN and the default advance: Z and N are those of the value, and only Y, Z, N and PC change. -/
theorem State.setY_setZN_advance_frame (s : State) (v : Byte) (md : Mode) :
    ZNof v (((s.setY v).setZN v).advance md) ∧ ChangesOnly [.y] [.z, .n] s (((s.setY v).setZN v).advance md) ∧
      SameBytes s (((s.setY v).setZN v).advance md) ∧ Advanced md s (((s.setY v).setZN v).advance md) :=
  ⟨(s.setY v).zNof_setZN v, ((s.setY_changesOnly v).setZN v).advance md, sameBytes_of_mem rfl, advanced_advance md rfl⟩

/-- A memory write with SetZN and the default advance: Z and N are those of the value, and only the address's mirror group,
Z, N and PC change. -/
theorem State.memWrite_setZN_advance_frame (s : State) (a : Addr) (v : Byte) (md : Mode) :
    ZNof v (((s.memWrite a v).setZN v).advance md) ∧
      ChangesOnly [] [.z, .n] s (((s.memWrite a v).setZN v).advance md) ∧
      SameBytesOutside [a] s (((s.memWrite a v).setZN v).advance md) ∧
      Advanced md s (((s.memWrite a v).setZN v).advance md) :=
  ⟨(s.memWrite a v).zNof_setZN v, ((s.memWrite_changesOnly a v).setZN v).advance md, sameBytesOutside_of_mem rfl,
    advanced_advance md rfl⟩

/-- A memory write with SetZN and the default advance is read back at its address. -/
theorem State.memRead_memWrite_setZN_advance (s : State) (a : Addr) (v : Byte) (md : Mode) (h : s.mem.wf) :
    (((s.memWrite a v).setZN v).advance md).memRead a = v := by
  rw [State.advance_memRead, State.setZN_memRead, s.memRead_memWrite a a v h, if_pos rfl]

/-- Settles O36: both store one byte at the effective address, set Z and N from it and advance, and that byte is the old one
plus or minus 1. -/
theorem memoryIncrementAndDecrement : Obligations.MemoryIncrementAndDecrement := by
  intro m s ⟨hwf, _⟩ v e he
  obtain ⟨r, hexec, hr⟩ : ∃ r : Byte,
      exec e.1 s = .next (((s.memWrite (s.effectiveAddress m) r).setZN r).advance m.mode) ∧ r.toNat = e.2 := by
    simp only [List.mem_cons, List.not_mem_nil, or_false] at he
    obtain rfl | rfl := he
    · exact ⟨v + 1, rfl, BitVec.toNat_add v 1⟩
    · exact ⟨v - 1, rfl, toNat_byte_sub_one v⟩
  refine ⟨_, hexec, ?_⟩
  rw [s.memRead_memWrite_setZN_advance _ r _ hwf]
  exact ⟨hr, s.memWrite_setZN_advance_frame _ r _⟩

/-- Settles O37: each is a write of X or Y with SetZN and the default advance, of the old value plus or minus 1. -/
theorem registerIncrementAndDecrement : Obligations.RegisterIncrementAndDecrement := by
  intro s e he
  simp only [List.mem_cons, List.not_mem_nil, or_false] at he
  obtain rfl | rfl | rfl | rfl := he
  · exact ⟨_, rfl, BitVec.toNat_add s.x 1, s.setX_setZN_advance_frame _ _⟩
  · exact ⟨_, rfl, BitVec.toNat_add s.y 1, s.setY_setZN_advance_frame _ _⟩
  · exact ⟨_, rfl, toNat_byte_sub_one s.x, s.setX_setZN_advance_frame _ _⟩
  · exact ⟨_, rfl, toNat_byte_sub_one s.y, s.setY_setZN_advance_frame _ _⟩

end Sys2Proof.Machine

namespace Sys2Proof.Machine

/-! ### Two-byte pushes and JSR (rules R65 (b), R209) -/

/-- Stack cells counted upwards from SP wrap within the stack page (rule R35). -/
theorem ofNat_add_mod_eq_stackAddr (sp : Byte) (k : Nat) :
    BitVec.ofNat 16 (0x0100 + (sp.toNat + k) % 256) = stackAddr (sp + BitVec.ofNat 8 k) := by
  rw [← ofNat_eq_stackAddr, BitVec.toNat_add, BitVec.toNat_ofNat, Nat.add_mod_mod]

/-- What two changes in a row keep outside the cells each stores into. -/
theorem SameBytesOutside.trans {stored stored' : List Addr} {s t u : State} (h : SameBytesOutside stored s t)
    (h' : SameBytesOutside stored' t u) : SameBytesOutside (stored ++ stored') s u := by
  intro a ha
  obtain ⟨hs, hs'⟩ := List.forall_mem_append.1 ha
  exact (h' a hs').trans (h a hs)

/-- A push leaves every other stack cell as it was. -/
theorem State.push_memRead_stackAddr_other (s : State) (v : Byte) {sp : Byte} (h : sp ≠ s.sp) :
    (s.push v).memRead (stackAddr sp) = s.memRead (stackAddr sp) :=
  s.memRead_memWrite_other _ _ _ fun hcell => h (cellOf_stackAddr_inj hcell)

/-- A two-byte push leaves the high byte in the cell at SP: the push of the low byte is one cell below. -/
theorem State.pushWord_memRead_high (s : State) (v : Addr) (h : s.mem.wf) :
    (s.pushWord v).memRead (stackAddr s.sp) = highByte v := by
  have hne : s.sp ≠ (s.push (highByte v)).sp := by
    rw [State.push_sp]
    bv_omega
  calc (s.pushWord v).memRead (stackAddr s.sp)
      = (s.push (highByte v)).memRead (stackAddr s.sp) := State.push_memRead_stackAddr_other _ _ hne
    _ = highByte v := s.push_memRead_stackAddr _ h

/-- A two-byte push leaves the low byte in the cell below SP. -/
theorem State.pushWord_memRead_low (s : State) (v : Addr) (h : s.mem.wf) :
    (s.pushWord v).memRead (stackAddr (s.sp - 1)) = lowByte v :=
  State.push_memRead_stackAddr _ _ (s.push_wf _ h)

/-- A two-byte push stores into the mirror groups of its two stack cells alone. -/
theorem State.pushWord_sameBytesOutside (s : State) (v : Addr) :
    SameBytesOutside [stackAddr s.sp, stackAddr (s.sp - 1)] s (s.pushWord v) := by
  have hhigh := s.push_sameBytesOutside (highByte v)
  have hlow := (s.push (highByte v)).push_sameBytesOutside (lowByte v)
  exact hhigh.trans hlow

/-- Of registers and flags, a two-byte push changes SP alone. -/
theorem State.pushWord_changesOnly (s : State) (v : Addr) : ChangesOnly [.sp] [] s (s.pushWord v) :=
  changesOnly_of (by simp) (by simp) (by simp) (by simp) (by simp) rfl rfl

/-- Settles O41: JSR is a two-byte push of PC + 2 and a write of PC, and the two cells counted from SP are those of the
push. -/
theorem jsrResult : Obligations.JsrResult := by
  intro target s ⟨hwf, _⟩ cell ret
  have hret : (s.pc + 2).toNat = ret := BitVec.toNat_add s.pc 2
  have hcell : ∀ k, cell k = stackAddr (s.sp + BitVec.ofNat 8 k) := ofNat_add_mod_eq_stackAddr s.sp
  have hsp : s.sp + BitVec.ofNat 8 0 = s.sp := BitVec.add_zero s.sp
  have hbelow : s.sp + BitVec.ofNat 8 255 = s.sp - 1 := (BitVec.sub_eq_add_neg s.sp 1).symm
  rw [hcell, hcell, hsp, hbelow, ← hret]
  refine ⟨(s.pushWord (s.pc + 2)).setPC target, rfl, ?_, ?_, ?_, rfl, s.pushWord_changesOnly _, s.pushWord_sameBytesOutside _⟩
  · rw [State.setPC_memRead, s.pushWord_memRead_high _ hwf, toNat_highByte]
  · rw [State.setPC_memRead, s.pushWord_memRead_low _ hwf, toNat_lowByte]
  · rw [State.setPC_sp, State.pushWord_sp]
    bv_omega

end Sys2Proof.Machine

namespace Sys2Proof.Machine

/-! ### Stack instructions and transfers (rules R217, R219, R221 to R226) -/

/-- What two changes in a row may change. -/
theorem ChangesOnly.trans {regs regs' : List Reg} {flags flags' : List Flag} {s t u : State}
    (h : ChangesOnly regs flags s t) (h' : ChangesOnly regs' flags' t u) :
    ChangesOnly (regs ++ regs') (flags ++ flags') s u := by
  obtain ⟨hregs, hflags, hrun, hrecord⟩ := h
  obtain ⟨hregs', hflags', hrun', hrecord'⟩ := h'
  refine ⟨fun r hr => ?_, fun f hf => ?_, hrun'.trans hrun, hrecord'.trans hrecord⟩
  · obtain ⟨hs, ht⟩ := not_or.1 (mt List.mem_append.2 hr)
    exact (hregs' r ht).trans (hregs r hs)
  · obtain ⟨hs, ht⟩ := not_or.1 (mt List.mem_append.2 hf)
    exact (hflags' f ht).trans (hflags f hs)

/-- Of registers and flags, a write of SP changes SP alone. -/
theorem State.setSP_changesOnly (s : State) (v : Byte) : ChangesOnly [.sp] [] s (s.setSP v) :=
  changesOnly_of (by simp) (by simp) (by simp) (by simp) (by simp) rfl rfl

/-- A pull and a write of A write different parts of the state, so their order does not matter. -/
theorem State.pull_writeA (s : State) (v : Byte) : s.pull.writeA v = (s.writeA v).pull := rfl

/-- Of registers and flags, a pull into A changes A, SP, Z and N alone. -/
theorem State.pull_writeA_changesOnly (s : State) (v : Byte) :
    ChangesOnly [.a, .sp] [.z, .n] s (s.pull.writeA v) := by
  rw [s.pull_writeA]
  exact (s.writeA_changesOnly v).trans (s.writeA v).pull_changesOnly

/-- Writing A's own value back only sets Z and N from it. -/
theorem State.writeA_self (s : State) : s.writeA s.a = s.setZN s.a := rfl

/-- TAX is a write of X with SetZN: WriteA only adds the flags of the value A already holds. -/
theorem exec_tax (s : State) : exec .tax s = .next (((s.setX s.a).setZN s.a).advance .implied) :=
  congrArg (fun t : State => Host.Outcome.next (t.advance .implied)) (s.setX s.a).writeA_self

/-- TAY is a write of Y with SetZN: WriteA only adds the flags of the value A already holds. -/
theorem exec_tay (s : State) : exec .tay s = .next (((s.setY s.a).setZN s.a).advance .implied) :=
  congrArg (fun t : State => Host.Outcome.next (t.advance .implied)) (s.setY s.a).writeA_self

/-- Settles O47: PHA is a push of A and the default advance, and the cell counted 0 from SP is the one the push stores
into. -/
theorem phaPushesA : Obligations.PhaPushesA := by
  intro s ⟨hwf, _⟩ cell
  have hcell : cell 0 = stackAddr s.sp :=
    (ofNat_add_mod_eq_stackAddr s.sp 0).trans (congrArg stackAddr (BitVec.add_zero s.sp))
  rw [hcell]
  refine ⟨(s.push s.a).advance .implied, rfl, ?_, toNat_byte_sub_one s.sp, (s.push_changesOnly s.a).advance .implied,
    s.push_sameBytesOutside s.a, advanced_advance .implied rfl⟩
  rw [State.advance_memRead, s.push_memRead_stackAddr s.a hwf]

/-- Settles O49: PLA is a pull, a write of the pulled byte to A and the default advance, and the pull reads the cell
counted 1 from SP. -/
theorem plaPullsA : Obligations.PlaPullsA := by
  intro s cell
  have hpulled : s.pulled = s.memRead (cell 1) :=
    congrArg s.memRead (ofNat_add_mod_eq_stackAddr s.sp 1).symm
  exact ⟨(s.pull.writeA s.pulled).advance .implied, rfl, hpulled, s.pull.zNof_writeA_advance s.pulled .implied,
    BitVec.toNat_add s.sp 1, (s.pull_writeA_changesOnly s.pulled).advance .implied, sameBytes_of_mem rfl,
    advanced_advance .implied rfl⟩

/-- Settles O51: a transfer into X or Y is a write of it with SetZN, one into A is WriteA, and TXS writes SP alone; each
then advances. -/
theorem transferResults : Obligations.TransferResults := by
  refine fun s => ⟨fun e he => ?_, ⟨(s.setSP s.x).advance .implied, rfl, rfl, (s.setSP_changesOnly s.x).advance .implied,
    sameBytes_of_mem rfl, advanced_advance .implied rfl⟩⟩
  simp only [List.mem_cons, List.not_mem_nil, or_false] at he
  obtain rfl | rfl | rfl | rfl | rfl := he
  · exact ⟨_, exec_tax s, rfl, s.setX_setZN_advance_frame s.a .implied⟩
  · exact ⟨_, exec_tay s, rfl, s.setY_setZN_advance_frame s.a .implied⟩
  · exact ⟨_, rfl, rfl, s.zNof_writeA_advance s.x .implied, s.writeA_advance_frame s.x .implied⟩
  · exact ⟨_, rfl, rfl, s.zNof_writeA_advance s.y .implied, s.writeA_advance_frame s.y .implied⟩
  · exact ⟨_, rfl, rfl, s.setX_setZN_advance_frame s.sp .implied⟩

end Sys2Proof.Machine

namespace Sys2Proof

/-! ### Decode and encode (rules R90 to R94) -/

/-- The decode tables agree with the encoder on every well-formed instruction (the per-instruction family Encoding). -/
theorem opcode_entry (i : Instr) (h : i.wellFormed = true) :
    ∃ op, i.opcode = some op ∧ decodeMnemonic op = i.mnemonic ∧ decodeMode op = i.mode := by
  cases i with
  | adc o => exact Laws.Encoding.adc o h
  | sbc op o => exact Laws.Encoding.sbc op o h
  | and o => exact Laws.Encoding.and o h
  | ora o => exact Laws.Encoding.ora o h
  | eor o => exact Laws.Encoding.eor o h
  | asl o => exact Laws.Encoding.asl o h
  | lsr o => exact Laws.Encoding.lsr o h
  | rol o => exact Laws.Encoding.rol o h
  | ror o => exact Laws.Encoding.ror o h
  | cmp o => exact Laws.Encoding.cmp o h
  | cpx o => exact Laws.Encoding.cpx o h
  | cpy o => exact Laws.Encoding.cpy o h
  | inc m => exact Laws.Encoding.inc m h
  | dec m => exact Laws.Encoding.dec m h
  | bit m => exact Laws.Encoding.bit m h
  | jmp o => exact Laws.Encoding.jmp o h
  | nop op o => exact Laws.Encoding.nop op o h
  | stp op => exact Laws.Encoding.stp op h
  | lda o => exact Laws.Encoding.lda o h
  | ldx o => exact Laws.Encoding.ldx o h
  | ldy o => exact Laws.Encoding.ldy o h
  | sta m => exact Laws.Encoding.sta m h
  | stx m => exact Laws.Encoding.stx m h
  | sty m => exact Laws.Encoding.sty m h
  | slo m => exact Laws.Encoding.slo m h
  | rla m => exact Laws.Encoding.rla m h
  | sre m => exact Laws.Encoding.sre m h
  | rra m => exact Laws.Encoding.rra m h
  | dcp m => exact Laws.Encoding.dcp m h
  | isc m => exact Laws.Encoding.isc m h
  | anc op b1 => exact Laws.Encoding.anc op b1 h
  | lax o => exact Laws.Encoding.lax o h
  | sax m => exact Laws.Encoding.sax m h
  | ahx m => exact Laws.Encoding.ahx m h
  | _ => exact ⟨_, rfl, rfl, rfl⟩

/-- No memory operand has the mode of an inline literal. -/
theorem memOperand_mode_ne_immediate (m : MemOperand) : m.mode ≠ .immediate := by
  cases m <;> nofun

/-- The operand bytes of a data operand assemble to it, and are as many as its mode takes. -/
theorem memOperand_bytes (m : MemOperand) :
    memOperand m.mode (m.bytes.getD 0 0) (m.bytes.getD 1 0) = some m ∧ m.bytes.length = operandLength m.mode := by
  cases m <;> simp [memOperand, MemOperand.mode, MemOperand.bytes, operandLength]

/-- The operand bytes of a read operand assemble to it, and are as many as its mode takes. -/
theorem readOperand_bytes (o : ReadOperand) :
    readOperand o.mode (o.bytes.getD 0 0) (o.bytes.getD 1 0) = some o ∧ o.bytes.length = operandLength o.mode := by
  cases o with
  | immediate b1 => exact ⟨rfl, rfl⟩
  | memory m =>
    obtain ⟨hm, hlen⟩ := memOperand_bytes m
    exact ⟨(if_neg (memOperand_mode_ne_immediate m)).trans (congrArg (Option.map ReadOperand.memory) hm), hlen⟩

/-- The operand bytes of a shift operand assemble to it, and are as many as its mode takes. -/
theorem shiftOperand_bytes (o : ShiftOperand) :
    shiftOperand o.mode (o.bytes.getD 0 0) (o.bytes.getD 1 0) = some o ∧ o.bytes.length = operandLength o.mode := by
  cases o with
  | accumulator => exact ⟨rfl, rfl⟩
  | memory m =>
    obtain ⟨hm, hlen⟩ := memOperand_bytes m
    exact ⟨(if_neg (Machine.memOperand_mode_ne_implied m)).trans (congrArg (Option.map ShiftOperand.memory) hm), hlen⟩

/-- The operand bytes of a jump operand assemble to it, and are as many as its mode takes. -/
theorem jumpOperand_bytes (o : JumpOperand) :
    jumpOperand o.mode (o.bytes.getD 0 0) (o.bytes.getD 1 0) = some o ∧ o.bytes.length = operandLength o.mode := by
  cases o <;> simp [jumpOperand, JumpOperand.mode, JumpOperand.bytes, operandLength]

/-- The operand bytes of a NOP operand assemble to it, and are as many as its mode takes. -/
theorem nopOperand_bytes (o : NopOperand) :
    nopOperand o.mode (o.bytes.getD 0 0) (o.bytes.getD 1 0) = some o ∧ o.bytes.length = operandLength o.mode := by
  cases o with
  | implied => exact ⟨rfl, rfl⟩
  | immediate b1 => exact ⟨rfl, rfl⟩
  | memory m =>
    obtain ⟨hm, hlen⟩ := memOperand_bytes m
    have hform : nopOperand m.mode (m.bytes.getD 0 0) (m.bytes.getD 1 0) =
        (memOperand m.mode (m.bytes.getD 0 0) (m.bytes.getD 1 0)).map .memory :=
      (if_neg (Machine.memOperand_mode_ne_implied m)).trans (if_neg (memOperand_mode_ne_immediate m))
    exact ⟨hform.trans (congrArg (Option.map NopOperand.memory) hm), hlen⟩

/-- An instruction's own mnemonic, mode, opcode and operand bytes assemble to it, and its operand bytes are as many as its
mode takes (rule R90). -/
theorem assemble_operandBytes (i : Instr) (op : Byte) (h : i.opcode = some op) :
    assemble i.mnemonic i.mode op (i.operandBytes.getD 0 0) (i.operandBytes.getD 1 0) = some i ∧
      i.operandBytes.length = operandLength i.mode := by
  cases i with
  | adc o | and o | ora o | eor o | cmp o | cpx o | cpy o | lda o | ldx o | ldy o | lax o =>
    exact ⟨congrArg (Option.map _) (readOperand_bytes o).1, (readOperand_bytes o).2⟩
  | sbc opcode o =>
    obtain rfl := Option.some.inj h
    exact ⟨congrArg (Option.map _) (readOperand_bytes o).1, (readOperand_bytes o).2⟩
  | asl o | lsr o | rol o | ror o =>
    exact ⟨congrArg (Option.map _) (shiftOperand_bytes o).1, (shiftOperand_bytes o).2⟩
  | inc m | dec m | bit m | sta m | stx m | sty m | slo m | rla m | sre m | rra m | dcp m | isc m | sax m | ahx m =>
    exact ⟨congrArg (Option.map _) (memOperand_bytes m).1, (memOperand_bytes m).2⟩
  | jmp o => exact ⟨congrArg (Option.map _) (jumpOperand_bytes o).1, (jumpOperand_bytes o).2⟩
  | nop opcode o =>
    obtain rfl := Option.some.inj h
    exact ⟨congrArg (Option.map _) (nopOperand_bytes o).1, (nopOperand_bytes o).2⟩
  | jsr a | tas a | shy a | shx a | las a =>
    exact ⟨by simp [assemble, Instr.mnemonic, Instr.mode, Instr.operandBytes, whenMode], rfl⟩
  | stp opcode | anc opcode b1 =>
    obtain rfl := Option.some.inj h
    exact ⟨rfl, rfl⟩
  | _ => exact ⟨rfl, rfl⟩

/-- Decoding an opcode followed by as many bytes as its mode takes assembles it with those, and leaves the bytes after
them. -/
theorem decode_append (b0 : Byte) (operand rest : List Byte) (h : operand.length = operandLength (decodeMode b0)) :
    decode (b0 :: (operand ++ rest)) = (assembleOpcode b0 (operand.getD 0 0) (operand.getD 1 0)).map (·, rest) := by
  have hle := Machine.operandLength_le (decodeMode b0)
  match operand, h with
  | [], h => simp [decode, ← h]
  | [b1], h => simp [decode, ← h]
  | [b1, b2], h => simp [decode, ← h]
  | _ :: _ :: _ :: _, h =>
    simp only [List.length_cons] at h
    omega

/-- Settles O6: the encoder's opcode has the instruction's entry in the decode tables, and its operand bytes assemble to the
instruction's operand. -/
theorem decodeOfEncode : Obligations.DecodeOfEncode := by
  intro i hwf
  obtain ⟨op, hop, hmn, hmd⟩ := opcode_entry i hwf
  obtain ⟨hasm, hlen⟩ := assemble_operandBytes i op hop
  refine ⟨op :: i.operandBytes, by simp [encode, hwf, hop], by rw [List.length_cons, hlen, Nat.add_comm], fun rest => ?_⟩
  rw [List.cons_append, decode_append op _ rest (hmd ▸ hlen), assembleOpcode, hmn, hmd, hasm]
  rfl

/-- A mnemonic with one mode assembles in that mode alone. -/
theorem whenMode_eq_some {md want : Mode} {i j : Instr} (h : whenMode md want j = some i) : md = want ∧ j = i := by
  simpa [whenMode] using h

/-- A data operand takes the operand bytes of its mode. -/
theorem bytes_of_memOperand {md : Mode} {b1 b2 : Byte} {m : MemOperand} (h : memOperand md b1 b2 = some m) :
    m.bytes = [b1, b2].take (operandLength md) := by
  cases md with
  | implied | relative | indirect | immediate => nomatch h
  | _ =>
    obtain rfl := Option.some.inj h
    simp [MemOperand.bytes, operandLength]

/-- A read operand takes the operand bytes of its mode. -/
theorem bytes_of_readOperand {md : Mode} {b1 b2 : Byte} {o : ReadOperand} (h : readOperand md b1 b2 = some o) :
    o.bytes = [b1, b2].take (operandLength md) := by
  unfold readOperand at h
  split at h
  · obtain rfl := Option.some.inj h
    subst md
    rfl
  · obtain ⟨m, hm, rfl⟩ := Option.map_eq_some_iff.1 h
    exact bytes_of_memOperand hm

/-- A shift operand takes the operand bytes of its mode. -/
theorem bytes_of_shiftOperand {md : Mode} {b1 b2 : Byte} {o : ShiftOperand} (h : shiftOperand md b1 b2 = some o) :
    o.bytes = [b1, b2].take (operandLength md) := by
  unfold shiftOperand at h
  split at h
  · obtain rfl := Option.some.inj h
    subst md
    rfl
  · obtain ⟨m, hm, rfl⟩ := Option.map_eq_some_iff.1 h
    exact bytes_of_memOperand hm

/-- A jump operand takes two operand bytes. -/
theorem bytes_of_jumpOperand {md : Mode} {b1 b2 : Byte} {o : JumpOperand} (h : jumpOperand md b1 b2 = some o) :
    o.bytes = [b1, b2].take (operandLength md) := by
  cases md with
  | absolute | indirect =>
    obtain rfl := Option.some.inj h
    simp [JumpOperand.bytes, operandLength]
  | _ => nomatch h

/-- A NOP operand takes the operand bytes of its mode. -/
theorem bytes_of_nopOperand {md : Mode} {b1 b2 : Byte} {o : NopOperand} (h : nopOperand md b1 b2 = some o) :
    o.bytes = [b1, b2].take (operandLength md) := by
  unfold nopOperand at h
  split at h
  · obtain rfl := Option.some.inj h
    subst md
    rfl
  · split at h
    · obtain rfl := Option.some.inj h
      subst md
      rfl
    · obtain ⟨m, hm, rfl⟩ := Option.map_eq_some_iff.1 h
      exact bytes_of_memOperand hm

/-- An assembled instruction's operand bytes are those its mode takes (rule R90). -/
theorem operandBytes_of_assemble {mn : Mnemonic} {md : Mode} {b0 b1 b2 : Byte} {i : Instr}
    (h : assemble mn md b0 b1 b2 = some i) : i.operandBytes = [b1, b2].take (operandLength md) := by
  cases mn with
  | adc | sbc | and | ora | eor | cmp | cpx | cpy | lda | ldx | ldy =>
    obtain ⟨o, ho, rfl⟩ := Option.map_eq_some_iff.1 h
    exact bytes_of_readOperand ho
  | asl | lsr | rol | ror =>
    obtain ⟨o, ho, rfl⟩ := Option.map_eq_some_iff.1 h
    exact bytes_of_shiftOperand ho
  | inc | dec | bit | sta | stx | sty =>
    obtain ⟨m, hm, rfl⟩ := Option.map_eq_some_iff.1 h
    exact bytes_of_memOperand hm
  | jmp =>
    obtain ⟨o, ho, rfl⟩ := Option.map_eq_some_iff.1 h
    exact bytes_of_jumpOperand ho
  | nop =>
    obtain ⟨o, ho, rfl⟩ := Option.map_eq_some_iff.1 h
    exact bytes_of_nopOperand ho
  | undocumented u =>
    cases u with
    | slo | rla | sre | rra | dcp | isc | sax | ahx =>
      obtain ⟨m, hm, rfl⟩ := Option.map_eq_some_iff.1 h
      exact bytes_of_memOperand hm
    | lax =>
      obtain ⟨o, ho, rfl⟩ := Option.map_eq_some_iff.1 h
      exact bytes_of_readOperand ho
    | _ =>
      obtain ⟨rfl, rfl⟩ := whenMode_eq_some h
      simp [Instr.operandBytes, operandLength]
  | _ =>
    obtain ⟨rfl, rfl⟩ := whenMode_eq_some h
    simp [Instr.operandBytes, operandLength]

/-- Well-formedness and the opcode of an assembled instruction do not depend on the operand bytes. -/
theorem assemble_map_wellFormed_opcode (mn : Mnemonic) (md : Mode) (b0 b1 b2 : Byte) :
    (assemble mn md b0 b1 b2).map (fun i => (i.wellFormed, i.opcode)) =
      (assemble mn md b0 0 0).map (fun i => (i.wellFormed, i.opcode)) := by
  cases mn with
  | undocumented u => cases u <;> cases md <;> rfl
  | _ => cases md <;> rfl

/-- What an opcode's table entry assembles to is well formed and has that opcode (rules R90, R93). -/
theorem wellFormed_opcode_of_assemble {b0 b1 b2 : Byte} {i : Instr}
    (h : assemble (decodeMnemonic b0) (decodeMode b0) b0 b1 b2 = some i) : i.wellFormed = true ∧ i.opcode = some b0 := by
  have htable : ∀ b0 : Byte, (assemble (decodeMnemonic b0) (decodeMode b0) b0 0 0).map (fun i => (i.wellFormed, i.opcode)) =
      some (true, some b0) := by decide +kernel
  have hi := assemble_map_wellFormed_opcode (decodeMnemonic b0) (decodeMode b0) b0 b1 b2
  rw [h, htable b0] at hi
  exact Prod.mk.inj (Option.some.inj hi)

/-- Settles O7: what decodes was assembled from its opcode's entry, so it is well formed, has that opcode and holds the
operand bytes its mode takes. -/
theorem encodeOfDecode : Obligations.EncodeOfDecode := by
  intro bytes i rest h
  obtain ⟨b0, b1, b2, hasm, hbytes⟩ := decode_cases h
  obtain ⟨hwf, hop⟩ := wellFormed_opcode_of_assemble hasm
  refine ⟨hwf, b0 :: i.operandBytes, by simp [encode, hwf, hop], ?_⟩
  rw [hbytes, operandBytes_of_assemble hasm]
  rfl

end Sys2Proof

namespace Sys2Proof

open Machine (Reg Flag)

/-! ### The parts each instruction's rule writes (rules R31 to R44) -/

/-- The byte registers a shift or rotate writes: the accumulator form its operand (rule R175). -/
def ShiftOperand.regsWritten : ShiftOperand → List Reg
  | .accumulator => [.a]
  | .memory _ => []

/-- The flags a shift or rotate writes: only the accumulator form writes Z and N (rule R175). -/
def ShiftOperand.flagsWritten : ShiftOperand → List Flag
  | .accumulator => [.c, .z, .n]
  | .memory _ => [.c]

/-- The byte registers an instruction's rule writes. -/
def Instr.regsWritten : Instr → List Reg
  | .adc _ | .sbc _ _ | .and _ | .ora _ | .eor _ | .lda _ | .txa | .tya => [.a]
  | .asl o | .lsr o | .rol o | .ror o => o.regsWritten
  | .ldx _ | .inx | .dex | .tax | .tsx => [.x]
  | .ldy _ | .iny | .dey | .tay => [.y]
  | .txs | .pha | .php | .plp | .jsr _ | .rts | .brk | .rti => [.sp]
  | .pla => [.a, .sp]
  | _ => []

/-- The flags an instruction's rule writes. -/
def Instr.flagsWritten : Instr → List Flag
  | .adc _ | .sbc _ _ => [.c, .v, .z, .n]
  | .and _ | .ora _ | .eor _ | .lda _ | .ldx _ | .ldy _ | .inc _ | .dec _ | .inx | .iny | .dex | .dey | .pla | .tax | .tay
  | .txa | .tya | .tsx => [.z, .n]
  | .asl o | .lsr o | .rol o | .ror o => o.flagsWritten
  | .cmp _ | .cpx _ | .cpy _ => [.c, .z, .n]
  | .bit _ => [.z, .v, .n]
  | .sec | .clc => [.c]
  | .sei | .cli => [.i]
  | .sed | .cld => [.d]
  | .clv => [.v]
  | .brk => [.b]
  | .plp | .rti => [.c, .z, .i, .d, .b, .u, .v, .n]
  | _ => []

@[simp] theorem ShiftOperand.mem_regsWritten (o : ShiftOperand) (r : Reg) :
    r ∈ o.regsWritten ↔ o = .accumulator ∧ r = .a := by
  cases o <;> simp [ShiftOperand.regsWritten]

@[simp] theorem ShiftOperand.mem_flagsWritten (o : ShiftOperand) (f : Flag) :
    f ∈ o.flagsWritten ↔ f = .c ∨ o = .accumulator ∧ (f = .z ∨ f = .n) := by
  cases o <;> simp [ShiftOperand.flagsWritten]

end Sys2Proof

namespace Sys2Proof.Machine

/-! ### What an instruction may change (rules R30 to R48) -/

/-- Nothing changes from a state to itself. -/
theorem ChangesOnly.refl (s : State) : ChangesOnly [] [] s s :=
  ⟨fun _ _ => rfl, fun _ _ => rfl, rfl, rfl⟩

/-- Of registers and flags, a write of PC changes none. -/
theorem State.setPC_changesOnly (s : State) (a : Addr) : ChangesOnly [] [] s (s.setPC a) :=
  ChangesOnly.refl s

/-- Of registers and flags, a write of one flag changes that flag alone. -/
theorem State.setFlag_changesOnly (s : State) (f : Flag) (v : Bool) : ChangesOnly [] [f] s (s.setFlag f v) := by
  refine changesOnly_of (by simp) (by simp) (by simp) (by simp) (fun g hg => ?_) rfl rfl
  rw [State.setFlag_flag, if_neg (by simpa using hg)]

/-- Of registers and flags, a write of P changes flags alone. -/
theorem State.setP_changesOnly (s : State) (v : Byte) :
    ChangesOnly [] [.c, .z, .i, .d, .b, .u, .v, .n] s (s.setP v) := by
  refine changesOnly_of (by simp) (by simp) (by simp) (by simp) (fun g hg => ?_) rfl rfl
  cases g <;> simp at hg

/-- Compare changes C, N and Z alone. -/
theorem State.compare_changesOnly (s : State) (l r : Byte) : ChangesOnly [] [.c, .z, .n] s (s.compare l r) := by
  refine changesOnly_of (by simp) (by simp) (by simp) (by simp) (fun g hg => ?_) rfl rfl
  obtain ⟨hc, hz, hn⟩ : g ≠ .c ∧ g ≠ .z ∧ g ≠ .n := by simpa using hg
  rw [State.compare_flag, if_neg hz, if_neg hn, if_neg hc]

/-- The flag writes of BIT change Z, V and N alone. -/
theorem State.testBits_changesOnly (s : State) (m : Byte) : ChangesOnly [] [.z, .v, .n] s (s.testBits m) := by
  refine changesOnly_of (by simp) (by simp) (by simp) (by simp) (fun g hg => ?_) rfl rfl
  obtain ⟨hz, hv, hn⟩ : g ≠ .z ∧ g ≠ .v ∧ g ≠ .n := by simpa using hg
  rw [State.testBits_flag, if_neg hn, if_neg hv, if_neg hz]

/-- The tail of ADC and SBC changes A, C, V, Z and N alone. -/
theorem State.addIntoA_changesOnly (s : State) (x y : Byte) : ChangesOnly [.a] [.c, .v, .z, .n] s (s.addIntoA x y) :=
  ((s.setFlag_changesOnly .c _).trans ((s.setFlag .c _).setFlag_changesOnly .v _)).trans (State.writeA_changesOnly _ _)

/-- A shift or rotate of A changes A, C, Z and N alone. -/
theorem State.shiftStore_accumulator_changesOnly (s : State) (v : Byte) (c : Bool) :
    ChangesOnly [.a] [.c, .z, .n] s (s.shiftStore .accumulator v c) :=
  (s.setFlag_changesOnly .c c).trans ((s.setFlag .c c).writeA_changesOnly v)

/-- Of registers and flags, a shift or rotate of memory changes C alone. -/
theorem State.shiftStore_memory_changesOnly (s : State) (m : MemOperand) (v : Byte) (c : Bool) :
    ChangesOnly [] [.c] s (s.shiftStore (.memory m) v c) :=
  (s.setFlag_changesOnly .c c).trans ((s.setFlag .c c).memWrite_changesOnly _ v)

/-- Of registers and flags, a branch changes none. -/
theorem State.branchIf_changesOnly (s : State) (cond : Bool) (b1 : Byte) : ChangesOnly [] [] s (s.branchIf cond b1) := by
  rw [State.branchIf_eq]
  exact s.setPC_changesOnly _

/-- Of registers and flags, trap entry changes SP and B alone. -/
theorem State.enterTrap_changesOnly (s : State) : ChangesOnly [.sp] [.b] s s.enterTrap := by
  refine changesOnly_of (fun _ => s.enterTrap_a) (fun _ => s.enterTrap_x) (fun _ => s.enterTrap_y) (by simp)
    (fun g hg => ?_) s.enterTrap_runState s.enterTrap_faultRecord
  rw [State.enterTrap_flag, if_neg (by simpa using hg)]

/-- A pull into P changes SP and flags alone. -/
theorem State.pull_setP_changesOnly (s : State) (v : Byte) :
    ChangesOnly [.sp] [.c, .z, .i, .d, .b, .u, .v, .n] s (s.pull.setP v) :=
  s.pull_changesOnly.trans (s.pull.setP_changesOnly v)

/-- Of registers, trap return changes SP alone. -/
theorem State.returnFromTrap_changesOnly (s : State) :
    ChangesOnly [.sp] [.c, .z, .i, .d, .b, .u, .v, .n] s s.returnFromTrap := by
  refine changesOnly_of (fun _ => rfl) (fun _ => rfl) (fun _ => rfl) (by simp) (fun g hg => ?_) rfl rfl
  cases g <;> simp at hg

/-! ### What an instruction can do (rules R136, R276) -/

/-- Every instruction answers a next state from every state: no meaning ends in a fault or a refusal. -/
theorem exec_next (i : Instr) (s : State) : ∃ t, exec i s = .next t := by
  cases i <;> exact ⟨_, rfl⟩

/-- Settles O56: each of the 18 raises the fault under its own mnemonic, and the other mnemonics are documented. -/
theorem undocumentedMnemonicsFault : Obligations.UndocumentedMnemonicsFault := by
  intro i u s h
  cases i with
  | slo | rla | sre | rra | dcp | isc | anc | alr | arr | xaa | lax | sax | ahx | tas | shy | shx | las | axs =>
    obtain rfl := Mnemonic.undocumented.inj h
    rfl
  | _ => nomatch h

/-- An instruction that neither halts nor faults: its mnemonic is documented and not STP. -/
def Ordinary (i : Instr) : Prop := i.mnemonic ≠ .stp ∧ ∀ u, i.mnemonic ≠ .undocumented u

/-- What holds of a next state an instruction answers holds of every one: it answers one. -/
theorem of_exec_next {P : State → Prop} {i : Instr} {s t : State} (h : exec i s = .next t)
    (hP : ∃ u, exec i s = .next u ∧ P u) : P t := by
  obtain ⟨u, hu, hPu⟩ := hP
  obtain rfl := Host.Outcome.next.inj (h.symm.trans hu)
  exact hPu

/-- An ordinary instruction changes only the registers and flags its rule writes, and neither the run state nor the fault
record. -/
theorem exec_changesOnly {i : Instr} {s t : State} (ho : Ordinary i) (h : exec i s = .next t) :
    ChangesOnly i.regsWritten i.flagsWritten s t := by
  refine of_exec_next h ?_
  cases i with
  | adc | sbc => exact ⟨_, rfl, (s.addIntoA_changesOnly _ _).advance _⟩
  | and | ora | eor | lda | txa | tya => exact ⟨_, rfl, (s.writeA_changesOnly _).advance _⟩
  | asl o | lsr o | rol o | ror o =>
    cases o with
    | accumulator => exact ⟨_, rfl, (s.shiftStore_accumulator_changesOnly _ _).advance _⟩
    | memory m => exact ⟨_, rfl, (s.shiftStore_memory_changesOnly m _ _).advance _⟩
  | cmp | cpx | cpy => exact ⟨_, rfl, (s.compare_changesOnly _ _).advance _⟩
  | ldx | inx | dex | tsx => exact ⟨_, rfl, ((s.setX_changesOnly _).setZN _).advance _⟩
  | ldy | iny | dey => exact ⟨_, rfl, ((s.setY_changesOnly _).setZN _).advance _⟩
  | tax => exact ⟨_, exec_tax s, ((s.setX_changesOnly _).setZN _).advance _⟩
  | tay => exact ⟨_, exec_tay s, ((s.setY_changesOnly _).setZN _).advance _⟩
  | inc | dec => exact ⟨_, rfl, ((s.memWrite_changesOnly _ _).setZN _).advance _⟩
  | bcc | bcs | beq | bmi | bne | bpl | bvc | bvs => exact ⟨_, rfl, s.branchIf_changesOnly _ _⟩
  | bit => exact ⟨_, rfl, (s.testBits_changesOnly _).advance _⟩
  | jmp => exact ⟨_, rfl, s.setPC_changesOnly _⟩
  | jsr => exact ⟨_, rfl, s.pushWord_changesOnly _⟩
  | rts => exact ⟨_, rfl, s.setSP_changesOnly _⟩
  | brk => exact ⟨_, rfl, s.enterTrap_changesOnly⟩
  | rti => exact ⟨_, rfl, s.returnFromTrap_changesOnly⟩
  | pha | php => exact ⟨_, rfl, (s.push_changesOnly _).advance _⟩
  | pla => exact ⟨_, rfl, (s.pull_writeA_changesOnly _).advance _⟩
  | plp => exact ⟨_, rfl, (s.pull_setP_changesOnly _).advance _⟩
  | txs => exact ⟨_, rfl, (s.setSP_changesOnly _).advance _⟩
  | sec | clc | sei | cli | sed | cld | clv => exact ⟨_, rfl, (s.setFlag_changesOnly _ _).advance _⟩
  | nop => exact ⟨_, rfl, (ChangesOnly.refl s).advance _⟩
  | sta | stx | sty => exact ⟨_, rfl, (s.memWrite_changesOnly _ _).advance _⟩
  | stp =>
    obtain ⟨hstp, _⟩ := ho
    exact absurd rfl hstp
  | slo | rla | sre | rra | dcp | isc | anc | alr | arr | xaa | lax | sax | ahx | tas | shy | shx | las | axs =>
    obtain ⟨_, hundocumented⟩ := ho
    exact absurd rfl (hundocumented _)

/-- All an instruction can do to the run state and the fault record: it raises the fault, halts, or keeps both. -/
theorem exec_cases {i : Instr} {s t : State} (h : exec i s = .next t) :
    (∃ u, i.mnemonic = .undocumented u ∧ t = s.raiseUnimplemented u) ∨
      (i.mnemonic = .stp ∧ t = (s.setRunState .halted).advance .implied) ∨
      (Ordinary i ∧ ChangesOnly i.regsWritten i.flagsWritten s t) := by
  by_cases hu : ∃ u, i.mnemonic = .undocumented u
  · obtain ⟨u, hu⟩ := hu
    exact .inl ⟨u, hu, Host.Outcome.next.inj (h.symm.trans (undocumentedMnemonicsFault i u s hu))⟩
  · by_cases hstp : i.mnemonic = .stp
    · cases i with
      | stp op => exact .inr (.inl ⟨rfl, (Host.Outcome.next.inj h).symm⟩)
      | _ => nomatch hstp
    · have ho : Ordinary i := ⟨hstp, not_exists.1 hu⟩
      exact .inr (.inr ⟨ho, exec_changesOnly ho h⟩)

/-- Whatever an instruction is, it keeps every register and flag its rule does not write. -/
theorem exec_keeps {i : Instr} {s t : State} (h : exec i s = .next t) :
    (∀ r, r ∉ i.regsWritten → t.reg r = s.reg r) ∧ ∀ f, f ∉ i.flagsWritten → t.flag f = s.flag f := by
  obtain ⟨u, _, rfl⟩ | ⟨_, rfl⟩ | ⟨_, hregs, hflags, _⟩ := exec_cases h
  · exact ⟨fun r _ => by cases r <;> rfl, fun _ _ => rfl⟩
  · exact ⟨fun r _ => by cases r <;> rfl, fun _ _ => rfl⟩
  · exact ⟨hregs, hflags⟩

/-- A branch keeps memory, taken or not. -/
@[simp] theorem State.branchIf_mem (s : State) (cond : Bool) (b1 : Byte) : (s.branchIf cond b1).mem = s.mem := by
  rw [State.branchIf_eq, State.setPC_mem]

/-- Every instruction keeps memory in canonical form. -/
theorem exec_wf {i : Instr} {s t : State} (h : exec i s = .next t) (hwf : s.mem.wf) : t.mem.wf := by
  refine of_exec_next (P := fun t => t.mem.wf) h ?_
  cases i with
  | asl o | lsr o | rol o | ror o => exact ⟨_, rfl, s.shiftStore_wf o _ _ hwf⟩
  | inc | dec | sta | stx | sty => exact ⟨_, rfl, s.memWrite_wf _ _ hwf⟩
  | bcc | bcs | beq | bmi | bne | bpl | bvc | bvs =>
    exact ⟨_, rfl, (s.branchIf_mem _ _).symm ▸ hwf⟩
  | jsr => exact ⟨_, rfl, s.pushWord_wf _ hwf⟩
  | brk => exact ⟨_, rfl, s.enterTrap_wf hwf⟩
  | pha | php => exact ⟨_, rfl, s.push_wf _ hwf⟩
  | _ => exact ⟨_, rfl, hwf⟩

/-! ### The invariant (rules R47, R48, R276) -/

/-- An instruction on a Running state keeps the invariant, and a fault it raises is recorded at PC. -/
theorem exec_inv {i : Instr} {s t : State} (hrun : s.runState = .running) (hinv : s.Inv) (h : exec i s = .next t) :
    t.Inv ∧ t.FaultAtPc := by
  obtain ⟨hwf, hrecord⟩ := hinv
  have hwf' := exec_wf h hwf
  obtain ⟨u, _, rfl⟩ | ⟨_, rfl⟩ | ⟨_, _, _, hrun', hrecord'⟩ := exec_cases h
  · exact ⟨⟨hwf', by simp⟩, fun _ => ⟨u, rfl⟩⟩
  · exact ⟨⟨hwf', by simpa [hrun] using hrecord⟩, by simp [State.FaultAtPc]⟩
  · exact ⟨⟨hwf', by rw [hrecord', hrun', hrecord]⟩, by simp [State.FaultAtPc, hrun', hrun]⟩

/-- A step from either source keeps the invariant, since it runs one instruction on a Running state. -/
theorem stepFrom_inv {src : Source} {s t : State} (hinv : s.Inv) (h : stepFrom src s = .next t) : t.Inv ∧ t.FaultAtPc := by
  obtain ⟨hrun, i, _, _, hexec⟩ := stepFrom_next h
  exact exec_inv hrun hinv hexec

/-- Settles O3: both entry points are a step from a source. -/
theorem stepKeepsInvariant : Obligations.StepKeepsInvariant :=
  ⟨fun _ _ => stepFrom_inv, fun _ _ _ => stepFrom_inv⟩

/-- A collaborator's writes keep the invariant. -/
theorem State.collaborate_inv (writes : List (Addr × Byte)) {s : State} (hinv : s.Inv) : (s.collaborate writes).Inv := by
  obtain ⟨hwf, hrecord⟩ := hinv
  refine ⟨s.collaborate_wf writes hwf, ?_⟩
  rw [s.collaborate_eq writes]
  exact hrecord

/-- A run of bytes written to memory changes memory and nothing else. -/
theorem State.writeBytes_eq (bytes : List Byte) (s : State) (a : Addr) :
    s.writeBytes a bytes = { s with mem := (s.writeBytes a bytes).mem } := by
  induction bytes generalizing s a with
  | nil => rfl
  | cons v rest ih => exact ih (s.memWrite a v) (a + 1)

/-- The loop of a run keeps the invariant, by induction on its inputs. -/
theorem runLoop_inv (inputs : List (List (Addr × Byte))) {s : State} (hinv : s.Inv) : (runLoop inputs s).Inv := by
  induction inputs generalizing s with
  | nil => exact hinv
  | cons writes rest ih =>
    rw [runLoop_cons]
    split
    · rename_i t hstep
      obtain ⟨hinv', _⟩ := stepFrom_inv hinv hstep
      split
      · exact ih (State.collaborate_inv writes hinv')
      · exact hinv'
    · exact hinv
    · exact hinv

/-- Settles O4: a run writes PC, which the invariant does not speak of, and loops; a load writes bytes. -/
theorem runKeepsInvariant : Obligations.RunKeepsInvariant := by
  refine ⟨fun pc inputs s hinv => runLoop_inv inputs (s := s.setPC pc) hinv, fun bytes s t hinv h => ?_⟩
  obtain ⟨hwf, hrecord⟩ := hinv
  unfold State.loadProgram at h
  split at h
  · obtain rfl := Host.Outcome.next.inj h
    refine ⟨State.writeBytes_wf bytes s 0 hwf, ?_⟩
    rw [State.writeBytes_eq]
    exact hrecord
  · nomatch h

/-! ### Who writes each part (rules R31 to R44) -/

/-- What an instruction changes in a register, its rule writes. -/
theorem mem_regsWritten_of_ne {i : Instr} {s t : State} (h : exec i s = .next t) (r : Reg) (hne : t.reg r ≠ s.reg r) :
    r ∈ i.regsWritten := by
  by_contra hr
  exact hne ((exec_keeps h).1 r hr)

/-- What an instruction changes in a flag, its rule writes. -/
theorem mem_flagsWritten_of_ne {i : Instr} {s t : State} (h : exec i s = .next t) (f : Flag) (hne : t.flag f ≠ s.flag f) :
    f ∈ i.flagsWritten := by
  by_contra hf
  exact hne ((exec_keeps h).2 f hf)

/-- An instruction that is none of those that store keeps every byte of memory. -/
theorem exec_sameBytes {i : Instr} {s t : State} (h : exec i s = .next t)
    (hi : i.mnemonic ∉ [Mnemonic.sta, .stx, .sty, .inc, .dec, .asl, .lsr, .rol, .ror, .pha, .php, .jsr, .brk]) :
    SameBytes s t := by
  refine of_exec_next h ?_
  cases i with
  | sta | stx | sty | inc | dec | asl | lsr | rol | ror | pha | php | jsr | brk => simp [Instr.mnemonic] at hi
  | bcc | bcs | beq | bmi | bne | bpl | bvc | bvs => exact ⟨_, rfl, sameBytes_of_mem (s.branchIf_mem _ _)⟩
  | _ => exact ⟨_, rfl, sameBytes_of_mem rfl⟩

/-- The instructions whose rules write a byte register (rules R31 to R35). -/
def Reg.writers : Reg → List Mnemonic
  | .x => [.ldx, .inx, .dex, .tax, .tsx]
  | .y => [.ldy, .iny, .dey, .tay]
  | .sp => [.txs, .pha, .php, .pla, .plp, .jsr, .rts, .brk, .rti]
  | .a => [.lda, .adc, .sbc, .and, .ora, .eor, .asl, .lsr, .rol, .ror, .pla, .txa, .tya]

/-- The instructions whose rules write a flag (rules R37 to R44). -/
def Flag.writers : Flag → List Mnemonic
  | .c => [.adc, .sbc, .asl, .lsr, .rol, .ror, .cmp, .cpx, .cpy, .sec, .clc, .plp, .rti]
  | .v => [.adc, .sbc, .bit, .clv, .plp, .rti]
  | .i => [.sei, .cli, .plp, .rti]
  | .d => [.sed, .cld, .plp, .rti]
  | .b => [.brk, .plp, .rti]
  | .u => [.plp, .rti]
  | .z | .n => [.lda, .ldx, .ldy, .adc, .sbc, .and, .ora, .eor, .asl, .lsr, .rol, .ror, .cmp, .cpx, .cpy, .inc, .dec,
      .inx, .iny, .dex, .dey, .bit, .pla, .plp, .rti, .tax, .tay, .txa, .tya, .tsx]

/-- A register an instruction's rule writes has the instruction among its writers. -/
theorem mnemonic_mem_reg_writers {i : Instr} {r : Reg} (h : r ∈ i.regsWritten) : i.mnemonic ∈ r.writers := by
  cases i with
  | asl o | lsr o | rol o | ror o =>
    obtain ⟨_, rfl⟩ := (o.mem_regsWritten r).1 h
    exact List.contains_iff_mem.1 rfl
  | adc | sbc | and | ora | eor | lda | txa | tya | ldx | inx | dex | tax | tsx | ldy | iny | dey | tay | txs | pha | php
  | plp | jsr | rts | brk | rti =>
    obtain rfl := List.mem_singleton.1 h
    exact List.contains_iff_mem.1 rfl
  | pla =>
    obtain rfl | rfl := List.mem_pair.1 h
    all_goals exact List.contains_iff_mem.1 rfl
  | _ => nomatch h

/-- A flag an instruction's rule writes has the instruction among its writers. -/
theorem mnemonic_mem_flag_writers {i : Instr} {f : Flag} (h : f ∈ i.flagsWritten) : i.mnemonic ∈ f.writers := by
  cases i with
  | asl o | lsr o | rol o | ror o =>
    obtain rfl | ⟨_, rfl | rfl⟩ := (o.mem_flagsWritten f).1 h
    all_goals exact List.contains_iff_mem.1 rfl
  | and | ora | eor | lda | ldx | ldy | inc | dec | inx | iny | dex | dey | pla | tax | tay | txa | tya | tsx =>
    obtain rfl | rfl := List.mem_pair.1 h
    all_goals exact List.contains_iff_mem.1 rfl
  | sec | clc | sei | cli | sed | cld | clv | brk =>
    obtain rfl := List.mem_singleton.1 h
    exact List.contains_iff_mem.1 rfl
  | adc | sbc =>
    obtain rfl | rfl | rfl | rfl : f = .c ∨ f = .v ∨ f = .z ∨ f = .n := by simpa [Instr.flagsWritten] using h
    all_goals exact List.contains_iff_mem.1 rfl
  | cmp | cpx | cpy =>
    obtain rfl | rfl | rfl : f = .c ∨ f = .z ∨ f = .n := by simpa [Instr.flagsWritten] using h
    all_goals exact List.contains_iff_mem.1 rfl
  | bit =>
    obtain rfl | rfl | rfl : f = .z ∨ f = .v ∨ f = .n := by simpa [Instr.flagsWritten] using h
    all_goals exact List.contains_iff_mem.1 rfl
  | plp | rti => cases f <;> exact List.contains_iff_mem.1 rfl
  | _ => nomatch h

/-- Settles O24: a register that changes is one the instruction's rule writes, so the instruction is among its writers; and
an instruction that is none of the storing ones keeps every byte. -/
theorem onlyListedInstructionsWriteRegistersAndMemory : Obligations.OnlyListedInstructionsWriteRegistersAndMemory := by
  intro i s t h
  have hwriters : ∀ r, t.reg r ≠ s.reg r → i.mnemonic ∈ r.writers := fun r hne =>
    mnemonic_mem_reg_writers (mem_regsWritten_of_ne h r hne)
  refine ⟨hwriters .x, hwriters .y, hwriters .sp, hwriters .a, fun hm => ?_⟩
  by_contra hi
  exact hm (exec_sameBytes h hi)

/-- Settles O25: a flag that changes is one the instruction's rule writes, so the instruction is among its writers. -/
theorem onlyListedInstructionsWriteFlags : Obligations.OnlyListedInstructionsWriteFlags := by
  intro i s t h
  have hwriters : ∀ f, t.flag f ≠ s.flag f → i.mnemonic ∈ f.writers := fun f hne =>
    mnemonic_mem_flag_writers (mem_flagsWritten_of_ne h f hne)
  exact ⟨hwriters .c, hwriters .v, hwriters .i, hwriters .d, hwriters .b, hwriters .u,
    fun hne => hne.elim (hwriters .z) (hwriters .n)⟩

end Sys2Proof.Machine

namespace Sys2Proof

/-! ### Decoding and the length of the bytes (rules R90, R133, R142) -/

/-- What decodes has its opcode's entry in the decode tables. -/
theorem decode_entry {b0 : Byte} {bytes rest : List Byte} {i : Instr} (h : decode (b0 :: bytes) = .ok (i, rest)) :
    i.mnemonic = decodeMnemonic b0 ∧ i.mode = decodeMode b0 := by
  obtain ⟨_, _, _, hasm, hbytes⟩ := decode_cases h
  obtain ⟨rfl, _⟩ := List.cons.inj hbytes
  exact assemble_entry hasm

/-- Bytes are long enough when they hold the operand bytes of the opcode's mode: then they decode, and to the same
instruction whatever follows. -/
theorem decode_ok_of_length_le {b0 : Byte} {bytes : List Byte} (h : operandLength (decodeMode b0) ≤ bytes.length) :
    ∃ i, decode (b0 :: bytes) = .ok (i, bytes.drop (operandLength (decodeMode b0))) ∧
      decode (b0 :: bytes.take (operandLength (decodeMode b0))) = .ok (i, []) := by
  have hlen : (bytes.take (operandLength (decodeMode b0))).length = operandLength (decodeMode b0) :=
    List.length_take_of_le h
  obtain ⟨i, hi⟩ := assembleOpcode_ok b0 ((bytes.take (operandLength (decodeMode b0))).getD 0 0)
    ((bytes.take (operandLength (decodeMode b0))).getD 1 0)
  refine ⟨i, ?_, ?_⟩
  · have hdecode := decode_append b0 _ (bytes.drop (operandLength (decodeMode b0))) hlen
    rw [List.take_append_drop, hi] at hdecode
    exact hdecode
  · have hdecode := decode_append b0 _ [] hlen
    rw [List.append_nil, hi] at hdecode
    exact hdecode

/-- Bytes too short for the opcode's mode are rejected by name. -/
theorem decode_truncated {b0 : Byte} {bytes : List Byte} (h : bytes.length < operandLength (decodeMode b0)) :
    decode (b0 :: bytes) = .error (.truncated b0) := by
  have hle := Machine.operandLength_le (decodeMode b0)
  match bytes, h with
  | [], h =>
    obtain hl | hl : operandLength (decodeMode b0) = 1 ∨ operandLength (decodeMode b0) = 2 := by
      rw [List.length_nil] at h
      omega
    all_goals simp [decode, hl]
  | [b1], h =>
    obtain hl : operandLength (decodeMode b0) = 2 := by
      rw [List.length_singleton] at h
      omega
    simp [decode, hl]
  | _ :: _ :: _, h =>
    simp only [List.length_cons] at h
    omega

end Sys2Proof

namespace Sys2Proof.Machine

/-! ### Fetch and step (rules R131 to R143) -/

/-- A memory-mode fetch takes the opcode at PC and the operand bytes its mode takes from the next two addresses. -/
theorem State.fetch_memory_eq (s : State) : s.fetch .memory = s.memRead s.pc ::
    [s.memRead (s.pc + 1), s.memRead (s.pc + 2)].take (operandLength (decodeMode (s.memRead s.pc))) := by
  rw [fetch_memory]
  obtain h | h | h := operandLength_cases (decodeMode (s.memRead s.pc)) <;> simp [h]

/-- A memory-mode fetch always decodes, to the instruction the three bytes from PC up decode to. -/
theorem State.decode_fetch_memory (s : State) : ∃ i rest,
    decode [s.memRead s.pc, s.memRead (s.pc + 1), s.memRead (s.pc + 2)] = .ok (i, rest) ∧
      decode (s.fetch .memory) = .ok (i, []) := by
  obtain ⟨i, hlong, hexact⟩ := decode_ok_of_length_le (b0 := s.memRead s.pc)
    (bytes := [s.memRead (s.pc + 1), s.memRead (s.pc + 2)]) (operandLength_le _)
  exact ⟨i, _, hlong, by rw [s.fetch_memory_eq, hexact]⟩

/-- Settles O15: the fetch takes from the three bytes those the instruction needs, and the rest do not matter to decoding. -/
theorem stepRunsDecodedInstruction : Obligations.StepRunsDecodedInstruction := by
  intro s i rest hrun hdecode
  obtain ⟨j, _, hlong, hfetch⟩ := s.decode_fetch_memory
  obtain ⟨rfl, _⟩ := Prod.mk.inj (Except.ok.inj (hlong.symm.trans hdecode))
  exact stepFrom_running hrun hfetch

/-- Settles O16: the fetch always decodes, and every instruction answers a next state. -/
theorem runningStatesAlwaysStep : Obligations.RunningStatesAlwaysStep := by
  intro s hrun
  obtain ⟨i, _, _, hfetch⟩ := s.decode_fetch_memory
  obtain ⟨t, hexec⟩ := exec_next i s
  exact ⟨t, (stepFrom_running hrun hfetch).trans hexec⟩

/-- A step from a Halted state answers the fault halted, whatever the source. -/
theorem stepFrom_halted {s : State} (h : s.runState = .halted) (src : Source) : stepFrom src s = .fault .halted := by
  simp [stepFrom, h]

/-- A step from a Faulted state answers the fault faulted, whatever the source. -/
theorem stepFrom_faulted {s : State} (h : s.runState = .faulted) (src : Source) : stepFrom src s = .fault .faulted := by
  simp [stepFrom, h]

/-- The loop of a run leaves a stopped state as it is. -/
theorem runLoop_of_fault {s : State} {r : Fault} (h : step s = .fault r) (inputs : List (List (Addr × Byte))) :
    runLoop inputs s = s := by
  cases inputs with
  | nil => rfl
  | cons writes rest => rw [runLoop_cons, h]

/-- Settles O17: the step tests the run state first, so a run stops before its first step, having written PC. -/
theorem stoppedStatesHaveNoStep : Obligations.StoppedStatesHaveNoStep := by
  refine fun s => ⟨fun h => ⟨stepFrom_halted h _, fun _ => stepFrom_halted h _⟩,
    fun h => ⟨stepFrom_faulted h _, fun _ => stepFrom_faulted h _⟩, fun h pc inputs => ?_⟩
  obtain ⟨r, hr⟩ : ∃ r, step (s.setPC pc) = .fault r := by
    cases hrun : s.runState with
    | running => exact absurd hrun h
    | halted => exact ⟨_, stepFrom_halted (s := s.setPC pc) hrun .memory⟩
    | faulted => exact ⟨_, stepFrom_faulted (s := s.setPC pc) hrun .memory⟩
  exact runLoop_of_fault hr inputs

/-- Settles O18: a step runs one instruction with the mnemonic of the opcode at PC, on a Running state, and an instruction
raises the fault, halts, or keeps the run state. -/
theorem runStateChangesOnlyByStpAndUndocumented : Obligations.RunStateChangesOnlyByStpAndUndocumented := by
  intro s t h
  obtain ⟨hrun, i, _, hdecode, hexec⟩ := stepFrom_next h
  rw [s.fetch_memory_eq] at hdecode
  obtain ⟨hmn, _⟩ := decode_entry hdecode
  rw [← hmn]
  obtain ⟨u, hu, rfl⟩ | ⟨hstp, rfl⟩ | ⟨⟨hstp, hu⟩, _, _, hrun', hrecord⟩ := exec_cases hexec
  · rw [hu]
    exact ⟨by simp, by simp, fun u' h' => by rw [Mnemonic.undocumented.inj h']; rfl, by simp⟩
  · rw [hstp]
    exact ⟨by simp, by simp, nofun, by simp⟩
  · rw [hrun', hrun]
    exact ⟨by simp [hstp], by simp [hu], fun u h' => absurd h' (hu u), fun _ => hrecord⟩

/-- Settles O19: such a buffer is what a memory-mode step fetches. -/
theorem bufferAndMemoryModesAgree : Obligations.BufferAndMemoryModesAgree := by
  intro s buf hlen hbytes
  have h0 : s.instrByte 0 = s.memRead s.pc := congrArg s.memRead (BitVec.add_zero s.pc)
  have hfetch : s.fetch (.buffer buf) = s.fetch .memory := by
    apply List.ext_getElem?
    intro k
    simp only [State.fetch, h0, List.getElem?_map]
    by_cases hk : k < buf.length
    · rw [hbytes k hk, List.getElem?_range (hlen ▸ hk)]
      rfl
    · rw [List.getElem?_eq_none (Nat.le_of_not_lt hk), List.getElem?_eq_none (by simpa [← hlen] using hk)]
      rfl
  unfold stepBuffer step stepFrom
  rw [hfetch]

/-- A step of a Running state whose bytes do not decode is refused with the decoder's reason. -/
theorem stepFrom_undecoded {src : Source} {s : State} {e : DecodeError} (hrun : s.runState = .running)
    (hdecode : decode (s.fetch src) = .error e) : stepFrom src s = .refused (.undecoded e) := by
  simp [stepFrom, hrun, hdecode]

/-- Settles O20: a buffer too short is refused as the decoder rejects it; one long enough decodes, and every instruction
answers a next state. -/
theorem shortBuffersAreRefused : Obligations.ShortBuffersAreRefused := by
  refine fun s b0 rest hrun => ⟨stepFrom_undecoded hrun rfl, fun h => stepFrom_undecoded hrun (decode_truncated h),
    fun h => ?_⟩
  obtain ⟨i, hdecode, _⟩ := decode_ok_of_length_le h
  obtain ⟨t, hexec⟩ := exec_next i s
  exact ⟨i, _, t, hdecode, (stepFrom_running (src := .buffer (b0 :: rest)) hrun hdecode).trans hexec, hexec⟩

/-! ### Runs of bytes written to memory (rules R61, R301) -/

/-- An address in the cell of no written byte reads as before. -/
theorem State.writeBytes_memRead_other (bytes : List Byte) (s : State) (a b : Addr)
    (h : ∀ k, k < bytes.length → cellOf b ≠ cellOf (a + BitVec.ofNat 16 k)) :
    (s.writeBytes a bytes).memRead b = s.memRead b := by
  induction bytes generalizing s a with
  | nil => rfl
  | cons v rest ih =>
    have hrest : ∀ k, k < rest.length → cellOf b ≠ cellOf (a + 1 + BitVec.ofNat 16 k) := fun k hk => by
      have hne := h (k + 1) (Nat.succ_lt_succ hk)
      rwa [Nat.add_comm, BitVec.ofNat_add, ← BitVec.add_assoc] at hne
    have hfirst : cellOf b ≠ cellOf a := by simpa using h 0 (Nat.succ_pos _)
    calc (s.writeBytes a (v :: rest)).memRead b
        = (s.memWrite a v).memRead b := ih (s.memWrite a v) (a + 1) hrest
      _ = s.memRead b := s.memRead_memWrite_other a b v hfirst

/-- An address in the cell of a written byte reads it, unless a later byte's address is in the same cell. -/
theorem State.writeBytes_memRead (bytes : List Byte) (s : State) (a b : Addr) (hwf : s.mem.wf) (k : Nat) (v : Byte)
    (hv : bytes[k]? = some v) (hcell : cellOf b = cellOf (a + BitVec.ofNat 16 k))
    (hlast : ∀ j, k < j → j < bytes.length → cellOf b ≠ cellOf (a + BitVec.ofNat 16 j)) :
    (s.writeBytes a bytes).memRead b = v := by
  induction bytes generalizing s a k with
  | nil => nomatch hv
  | cons w rest ih =>
    have hshift : ∀ j : Nat, a + BitVec.ofNat 16 (j + 1) = a + 1 + BitVec.ofNat 16 j := fun j => by
      rw [Nat.add_comm, BitVec.ofNat_add, ← BitVec.add_assoc]
      rfl
    cases k with
    | zero =>
      obtain rfl := Option.some.inj hv
      have hlater : ∀ j, j < rest.length → cellOf b ≠ cellOf (a + 1 + BitVec.ofNat 16 j) := fun j hj =>
        hshift j ▸ hlast (j + 1) (Nat.succ_pos j) (Nat.succ_lt_succ hj)
      have hfirst : cellOf b = cellOf a := by simpa using hcell
      calc (s.writeBytes a (w :: rest)).memRead b
          = (s.memWrite a w).memRead b := State.writeBytes_memRead_other rest (s.memWrite a w) (a + 1) b hlater
        _ = w := by rw [s.memRead_memWrite a b w hwf, if_pos hfirst]
    | succ k =>
      refine ih (s.memWrite a w) (a + 1) (s.memWrite_wf a w hwf) k hv (hshift k ▸ hcell) fun j hj hlen => ?_
      exact hshift j ▸ hlast (j + 1) (Nat.succ_lt_succ hj) (Nat.succ_lt_succ hlen)

/-- Of registers and flags, a run of bytes written to memory changes none. -/
theorem State.writeBytes_changesOnly (bytes : List Byte) (s : State) (a : Addr) :
    ChangesOnly [] [] s (s.writeBytes a bytes) := by
  rw [State.writeBytes_eq]
  exact ChangesOnly.refl s

/-- Settles O22: a load writes its bytes in order through the mirror map, and mirror groups are the addresses of one cell. -/
theorem programLoadPlacesBytes : Obligations.ProgramLoadPlacesBytes := by
  intro s bytes ⟨hwf, _⟩
  have haddr : ∀ k : Nat, (0 : Addr) + BitVec.ofNat 16 k = BitVec.ofNat 16 k := fun _ => BitVec.zero_add _
  refine ⟨fun hlen => ⟨s.writeBytes 0 bytes, if_pos hlen, s.writeBytes_changesOnly bytes 0, ?_, ?_, ?_⟩,
    fun hlen => if_neg (Nat.not_le_of_lt hlen)⟩
  · rw [State.writeBytes_eq]
  · intro k v a hv hgroup hlast
    simp only [mirrorGroup_iff] at hgroup hlast
    refine State.writeBytes_memRead bytes s 0 a hwf k v hv (by rwa [haddr]) fun j hj hlen => ?_
    rw [haddr]
    exact hlast j hj hlen
  · intro a hother
    simp only [mirrorGroup_iff] at hother
    refine State.writeBytes_memRead_other bytes s 0 a fun k hk => ?_
    rw [haddr]
    exact hother k hk

/-- Two addresses less than 8 apart, modulo 65536, are of different cells. -/
theorem cellOf_add_ne (a : Addr) {j k : Nat} (hjk : j < k) (hk : k < 8) :
    cellOf (a + BitVec.ofNat 16 j) ≠ cellOf (a + BitVec.ofNat 16 k) := by
  have ha := a.isLt
  have hj : (a + BitVec.ofNat 16 j).toNat = (a.toNat + j) % 65536 := by
    rw [BitVec.toNat_add, BitVec.toNat_ofNat]
    omega
  have hk : (a + BitVec.ofNat 16 k).toNat = (a.toNat + k) % 65536 := by
    rw [BitVec.toNat_add, BitVec.toNat_ofNat]
    omega
  obtain h | h | h := cellOf_cases (a + BitVec.ofNat 16 j) <;>
    obtain h' | h' | h' := cellOf_cases (a + BitVec.ofNat 16 k) <;> omega

/-- At most eight bytes written from an address up are read back from there. -/
theorem State.writeBytes_memRead_add (s : State) (a : Addr) {bytes : List Byte} (hwf : s.mem.wf) (hlen : bytes.length ≤ 8)
    {k : Nat} {v : Byte} (hv : bytes[k]? = some v) : (s.writeBytes a bytes).memRead (a + BitVec.ofNat 16 k) = v :=
  State.writeBytes_memRead bytes s a _ hwf k v hv rfl fun _ hj hj' => cellOf_add_ne a hj (Nat.lt_of_lt_of_le hj' hlen)

/-- Placing a word keeps PC. -/
@[simp] theorem State.withFetchWord_pc (s : State) (nbits w : Nat) : (s.withFetchWord nbits w).pc = s.pc := by
  rw [State.withFetchWord, State.writeBytes_eq]

/-- Placing a word keeps the run state. -/
@[simp] theorem State.withFetchWord_runState (s : State) (nbits w : Nat) :
    (s.withFetchWord nbits w).runState = s.runState := by
  rw [State.withFetchWord, State.writeBytes_eq]

/-- The bytes of a placed word are those at PC, PC + 1 and PC + 2. -/
theorem State.withFetchWord_memRead (s : State) (nbits w : Nat) (hwf : s.mem.wf) :
    [(s.withFetchWord nbits w).memRead s.pc, (s.withFetchWord nbits w).memRead (s.pc + 1),
      (s.withFetchWord nbits w).memRead (s.pc + 2)] = tableBytes nbits w := by
  have hread : ∀ (k : Nat) (v : Byte), (tableBytes nbits w)[k]? = some v →
      (s.withFetchWord nbits w).memRead (s.pc + BitVec.ofNat 16 k) = v := fun _ _ hv =>
    s.writeBytes_memRead_add s.pc hwf (by simp [tableBytes]) hv
  have h0 : (s.withFetchWord nbits w).memRead s.pc = _ := BitVec.add_zero s.pc ▸ hread 0 _ rfl
  have h1 : (s.withFetchWord nbits w).memRead (s.pc + 1) = _ := hread 1 _ rfl
  have h2 : (s.withFetchWord nbits w).memRead (s.pc + 2) = _ := hread 2 _ rfl
  rw [h0, h1, h2]
  rfl

/-- What a table word decodes to, its three bytes decode to. -/
theorem decode_tableBytes {nbits w : Nat} {i : Instr} (h : decodeTableWord nbits w = some i) :
    ∃ rest, decode (tableBytes nbits w) = .ok (i, rest) := by
  unfold decodeTableWord at h
  split at h
  · rename_i j rest hj
    obtain rfl := Option.some.inj h
    exact ⟨rest, hj⟩
  · nomatch h

/-- Settles O21: the three bytes of a placed word lie in different cells, so they are what is fetched at PC. -/
theorem placedWordIsRunNext : Obligations.PlacedWordIsRunNext := by
  intro s nbits w i ⟨hwf, _⟩ hrun hword
  obtain ⟨rest, hdecode⟩ := decode_tableBytes hword
  refine stepRunsDecodedInstruction _ i rest (by rwa [State.withFetchWord_runState]) ?_
  rw [State.withFetchWord_pc, s.withFetchWord_memRead nbits w hwf, hdecode]

end Sys2Proof.Machine

namespace Sys2Proof.Machine

/-! ### Construction and known words (rules R51, R93, R300) -/

/-- Settles O1: an empty store holds 0x00 in every cell. -/
theorem constructionState : Obligations.ConstructionState :=
  ⟨rfl, rfl, rfl, rfl, rfl, rfl, rfl, rfl, fun _ => rfl⟩

/-- Settles O2: the empty store is canonical, and a Running state has no fault record. -/
theorem constructionStateMeetsInvariant : Obligations.ConstructionStateMeetsInvariant :=
  ⟨⟨Memory.reset_wf, by decide⟩, nofun⟩

/-- Settles O5: each of the ten words, by running the decoder. -/
theorem knownWordsDecode : Obligations.KnownWordsDecode :=
  ⟨rfl, rfl, rfl, rfl, rfl, rfl, rfl, rfl, rfl, rfl⟩

/-! ### The canonical form of memory (rules R61, R62) -/

/-- Settles O9: a mirror group is the addresses of one cell, and a write writes one cell. -/
theorem mirrorGroupsShareOneCell : Obligations.MirrorGroupsShareOneCell := by
  intro s a b v ⟨hwf, _⟩
  rw [s.memRead_memWrite a b v hwf, mirrorGroup_iff]
  exact ⟨fun h => if_pos h, fun h => if_neg h⟩

/-- A canonical memory lists exactly the cells that hold another byte than an empty one, with that byte. -/
theorem Memory.mem_iff_read {m : Memory} (h : m.wf) (c : Host.Cell) :
    c ∈ m ↔ m.read c.1 = c.2 ∧ c.2 ≠ Config.emptyByte := by
  obtain ⟨hp, hcells⟩ := h
  induction m with
  | nil => exact ⟨nofun, fun ⟨hread, hne⟩ => absurd hread.symm hne⟩
  | cons d rest ih =>
    obtain ⟨habove, hp'⟩ := List.pairwise_cons.1 hp
    obtain ⟨⟨_, hd⟩, hcells'⟩ := List.forall_mem_cons.1 hcells
    obtain ⟨k, v⟩ := d
    by_cases hk : c.1 = k
    · have hrest : c ∉ rest := fun hc => (habove c hc).ne hk.symm
      simp only [List.mem_cons, hrest, or_false, Memory.read, if_pos hk]
      exact ⟨fun hc => hc ▸ ⟨rfl, hd⟩, fun ⟨hv, _⟩ => Prod.ext hk hv.symm⟩
    · have hhead : c ≠ (k, v) := fun hc => hk (congrArg Prod.fst hc)
      simp only [List.mem_cons, hhead, false_or, Memory.read, if_neg hk]
      exact ih hp' hcells'

/-- Every cell of the store is the cell of the address that names it. -/
theorem cellOf_ofNat {k : Nat} (h : isCell k = true) : cellOf (BitVec.ofNat 16 k) = k := by
  rw [isCell_iff] at h
  have hk : (BitVec.ofNat 16 k).toNat = k := by
    rw [BitVec.toNat_ofNat]
    omega
  obtain h' | h' | h' := cellOf_cases (BitVec.ofNat 16 k) <;> omega

/-- What a canonical memory lists, another that reads the same at every address lists too. -/
theorem Memory.mem_of_mem {m n : Memory} (hm : m.wf) (hn : n.wf)
    (h : ∀ a : Addr, m.read (cellOf a) = n.read (cellOf a)) {c : Host.Cell} (hc : c ∈ m) : c ∈ n := by
  obtain ⟨hread, hne⟩ := (Memory.mem_iff_read hm c).1 hc
  obtain ⟨_, hcells⟩ := hm
  obtain ⟨hcell, _⟩ := hcells c hc
  have hsame := h (BitVec.ofNat 16 c.1)
  rw [cellOf_ofNat hcell, hread] at hsame
  exact (Memory.mem_iff_read hn c).2 ⟨hsame.symm, hne⟩

/-- Settles O10: the two list the same cells, and a strictly rising list is determined by its members. -/
theorem canonicalMemoriesWithEqualBytesAreEqual : Obligations.CanonicalMemoriesWithEqualBytesAreEqual := by
  intro m n hm hn h
  have hmem : ∀ c, c ∈ m ↔ c ∈ n := fun c =>
    ⟨Memory.mem_of_mem hm hn h, Memory.mem_of_mem hn hm fun a => (h a).symm⟩
  have : Std.Irrefl fun c d : Host.Cell => c.1 < d.1 := ⟨fun c => lt_irrefl c.1⟩
  have : Std.Antisymm fun c d : Host.Cell => c.1 < d.1 := ⟨fun _ _ h h' => absurd h' h.asymm⟩
  obtain ⟨hpm, _⟩ := hm
  obtain ⟨hpn, _⟩ := hn
  exact hpm.eq_of_mem_iff hpn hmem

/-! ### The resolver from the bytes (rules R96 to R107) -/

/-- What the resolver gives for a mode and its operand bytes, whatever the mnemonic. -/
def State.resolveBytes (s : State) (md : Mode) (b1 b2 : Byte) : Resolved :=
  match md with
  | .implied => .none
  | .immediate => .literal b1
  | .relative => .address (s.pc + branchOffset b1)
  | .indirect => .address (s.readWord (wordOf b1 b2) (wordOf b1 b2 + 1))
  | .absolute => .address (wordOf b1 b2)
  | .absoluteX => .address (s.effectiveAddress (.absoluteX (wordOf b1 b2)))
  | .absoluteY => .address (s.effectiveAddress (.absoluteY (wordOf b1 b2)))
  | .indexedIndirect => .address (s.effectiveAddress (.indexedIndirect b1))
  | .indirectIndexed => .address (s.effectiveAddress (.indirectIndexed b1))
  | .zeroPage => .address (s.effectiveAddress (.zeroPage b1))
  | .zeroPageX => .address (s.effectiveAddress (.zeroPageX b1))
  | .zeroPageY => .address (s.effectiveAddress (.zeroPageY b1))

/-- A data operand resolves as its mode and bytes say. -/
theorem State.resolveBytes_memOperand (s : State) {md : Mode} {b1 b2 : Byte} {m : MemOperand}
    (h : memOperand md b1 b2 = some m) : s.resolveBytes md b1 b2 = .address (s.effectiveAddress m) := by
  cases md with
  | implied | relative | indirect | immediate => nomatch h
  | _ =>
    obtain rfl := Option.some.inj h
    rfl

/-- A read operand resolves as its mode and bytes say. -/
theorem State.resolveBytes_readOperand (s : State) {md : Mode} {b1 b2 : Byte} {o : ReadOperand}
    (h : readOperand md b1 b2 = some o) : s.resolveBytes md b1 b2 = s.resolveRead o := by
  unfold readOperand at h
  split at h
  · obtain rfl := Option.some.inj h
    subst md
    rfl
  · obtain ⟨m, hm, rfl⟩ := Option.map_eq_some_iff.1 h
    exact s.resolveBytes_memOperand hm

/-- An assembled instruction resolves as its mode and operand bytes say (rule R134). -/
theorem State.resolve_of_assemble (s : State) {mn : Mnemonic} {md : Mode} {b0 b1 b2 : Byte} {i : Instr}
    (h : assemble mn md b0 b1 b2 = some i) : s.resolve i = s.resolveBytes md b1 b2 := by
  cases mn with
  | adc | sbc | and | ora | eor | cmp | cpx | cpy | lda | ldx | ldy =>
    obtain ⟨o, ho, rfl⟩ := Option.map_eq_some_iff.1 h
    exact (s.resolveBytes_readOperand ho).symm
  | asl | lsr | rol | ror =>
    obtain ⟨o, ho, rfl⟩ := Option.map_eq_some_iff.1 h
    unfold shiftOperand at ho
    split at ho
    · obtain rfl := Option.some.inj ho
      subst md
      rfl
    · obtain ⟨m, hm, rfl⟩ := Option.map_eq_some_iff.1 ho
      exact (s.resolveBytes_memOperand hm).symm
  | inc | dec | bit | sta | stx | sty =>
    obtain ⟨m, hm, rfl⟩ := Option.map_eq_some_iff.1 h
    exact (s.resolveBytes_memOperand hm).symm
  | jmp =>
    obtain ⟨o, ho, rfl⟩ := Option.map_eq_some_iff.1 h
    cases md with
    | absolute | indirect =>
      obtain rfl := Option.some.inj ho
      rfl
    | _ => nomatch ho
  | nop =>
    obtain ⟨o, ho, rfl⟩ := Option.map_eq_some_iff.1 h
    unfold nopOperand at ho
    split at ho
    · obtain rfl := Option.some.inj ho
      subst md
      rfl
    · split at ho
      · obtain rfl := Option.some.inj ho
        subst md
        rfl
      · obtain ⟨m, hm, rfl⟩ := Option.map_eq_some_iff.1 ho
        exact (s.resolveBytes_memOperand hm).symm
  | undocumented u =>
    cases u with
    | slo | rla | sre | rra | dcp | isc | sax | ahx =>
      obtain ⟨m, hm, rfl⟩ := Option.map_eq_some_iff.1 h
      exact (s.resolveBytes_memOperand hm).symm
    | lax =>
      obtain ⟨o, ho, rfl⟩ := Option.map_eq_some_iff.1 h
      exact (s.resolveBytes_readOperand ho).symm
    | _ =>
      obtain ⟨rfl, rfl⟩ := whenMode_eq_some h
      rfl
  | _ =>
    obtain ⟨rfl, rfl⟩ := whenMode_eq_some h
    rfl

/-- A decoded instruction resolves as its opcode's mode and the two bytes after the opcode say. -/
theorem State.resolve_of_decode (s : State) {b0 b1 b2 : Byte} {rest left : List Byte} {i : Instr}
    (h : decode (b0 :: b1 :: b2 :: rest) = .ok (i, left)) : s.resolve i = s.resolveBytes (decodeMode b0) b1 b2 := by
  obtain ⟨_, c1, c2, hasm, hbytes⟩ := decode_cases h
  obtain ⟨rfl, htail⟩ := List.cons.inj hbytes
  rw [s.resolve_of_assemble hasm]
  revert htail
  cases decodeMode b0 with
  | implied => exact fun _ => rfl
  | absolute | absoluteX | absoluteY | indirect =>
    intro htail
    obtain ⟨rfl, rfl, _⟩ : b1 = c1 ∧ b2 = c2 ∧ rest = left := by simpa [operandLength] using htail
    rfl
  | _ =>
    intro htail
    obtain ⟨rfl, _⟩ : b1 = c1 ∧ b2 :: rest = left := by simpa [operandLength] using htail
    rfl

/-- The word of two operand bytes as the number of rule R90. -/
theorem wordOf_eq_ofNat (hi lo : Byte) : wordOf hi lo = BitVec.ofNat 16 (hi.toNat * 256 + lo.toNat) := by
  rw [← toNat_wordOf, BitVec.ofNat_toNat, BitVec.setWidth_eq]

/-- A branch offset added to an address, as the number of rules R107 and R196. -/
theorem add_branchOffset (a : Addr) (b1 : Byte) : a + branchOffset b1 = BitVec.ofInt 16 (a.toNat + b1.toInt) := by
  rw [BitVec.ofInt_add, BitVec.ofInt_natCast, BitVec.ofNat_toNat, BitVec.setWidth_eq]
  rfl

/-- A word indexed by a byte, as a number. -/
theorem wordOf_add_index (hi lo index : Byte) :
    wordOf hi lo + index.setWidth 16 = BitVec.ofNat 16 (hi.toNat * 256 + lo.toNat + index.toNat) := by
  rw [BitVec.ofNat_add, ← wordOf_eq_ofNat, BitVec.ofNat_toNat]

/-- Settles O14: an instruction resolves as its mode and bytes say, and each word mode's address is the number of its
rule. -/
theorem wordOperandResolution : Obligations.WordOperandResolution := by
  refine ⟨fun s a => ⟨rfl, toNat_add_index a s.x, toNat_add_index a s.y⟩, ?_⟩
  intro s b0 hi lo rest i left h word
  have hword : wordOf hi lo = BitVec.ofNat 16 word := wordOf_eq_ofNat hi lo
  have hnext : wordOf hi lo + 1 = BitVec.ofNat 16 (word + 1) := by
    rw [BitVec.ofNat_add, ← hword]
    rfl
  rw [s.resolve_of_decode h]
  refine ⟨fun hmd => ?_, fun hmd => ?_, fun hmd => ?_, fun hmd => ?_, fun hmd => ?_⟩
  · rw [hmd, ← hword]
    rfl
  · rw [hmd, ← wordOf_add_index]
    rfl
  · rw [hmd, ← wordOf_add_index]
    rfl
  · rw [hmd, ← hword, ← hnext, ← wordOf_eq_ofNat]
    rfl
  · rw [hmd, ← add_branchOffset]
    rfl

/-- Settles O23: each of these ends in the default advance, from a state whose PC is still the instruction's own. -/
theorem defaultAdvance : Obligations.DefaultAdvance := by
  intro i s hsets hu
  cases i with
  | bcc | bcs | beq | bmi | bne | bpl | bvc | bvs | jmp | jsr | rts | brk | rti => simp [Instr.mnemonic] at hsets
  | slo | rla | sre | rra | dcp | isc | anc | alr | arr | xaa | lax | sax | ahx | tas | shy | shx | las | axs =>
    exact absurd rfl (hu _)
  | asl o | lsr o | rol o | ror o => exact ⟨_, rfl, advanced_advance o.mode (s.shiftStore_pc o _ _)⟩
  | _ => exact ⟨_, rfl, advanced_advance _ rfl⟩

end Sys2Proof.Machine

namespace Sys2Proof

open Machine (Flag)

/-- The flags an instruction's effect depends on, apart from the copy of P that PHP and BRK push (rules R37 to R44). -/
def Instr.flagsRead : Instr → List Flag
  | .adc _ | .sbc _ _ => [.c, .d]
  | .rol _ | .ror _ | .bcc _ | .bcs _ => [.c]
  | .beq _ | .bne _ => [.z]
  | .bmi _ | .bpl _ => [.n]
  | .bvc _ | .bvs _ => [.v]
  | _ => []

end Sys2Proof

namespace Sys2Proof.Machine

/-! ### Flags that have no effect (rules R38 to R44) -/

/-- Two status bytes agree in every flag with the given property. -/
def AgreeWhere (P : Flag → Prop) (p q : Byte) : Prop := ∀ f, P f → flagOf p f = flagOf q f

/-- Writing one flag of both keeps two status bytes in agreement. -/
theorem AgreeWhere.withFlag {P : Flag → Prop} {p q : Byte} (h : AgreeWhere P p q) (f : Flag) (v : Bool) :
    AgreeWhere P (withFlag p f v) (withFlag q f v) := by
  intro g hg
  rw [flagOf_withFlag, flagOf_withFlag, h g hg]

/-- The addend depends on D alone. -/
theorem State.addend_withP {P : Flag → Prop} {s : State} {p : Byte} (h : AgreeWhere P p s.p) (hd : P .d) (v : Byte) :
    State.addend { s with p := p } v = s.addend v := by
  have hd' : State.flag { s with p := p } .d = s.flag .d := h .d hd
  rw [State.addend, hd', State.addend]

/-- ADC and SBC depend on C and D alone, and write the same value into the flags they write. -/
theorem State.addIntoA_withP {P : Flag → Prop} {s : State} {p : Byte} (h : AgreeWhere P p s.p) (hc : P .c) (hd : P .d)
    {x x' y y' : Byte} (hx : x' = x) (hy : y' = y) (md : Mode) : ∃ t q,
      (.next ((s.addIntoA x y).advance md) : Result) = .next t ∧
        (.next ((State.addIntoA { s with p := p } x' y').advance md) : Result) = .next { t with p := q } ∧
        AgreeWhere P q t.p := by
  have hc' : State.flag { s with p := p } .c = s.flag .c := h .c hc
  have hd' : State.flag { s with p := p } .d = s.flag .d := h .d hd
  refine ⟨_, _, rfl, ?_, (((h.withFlag .c _).withFlag .v _).withFlag .z _).withFlag .n _⟩
  simp only [State.addIntoA, hx, hy, hc', hd']
  rfl

/-- Storing the same result of a shift or rotate writes the same value into the flags it writes. -/
theorem State.shiftStore_withP {P : Flag → Prop} {s : State} {p : Byte} (h : AgreeWhere P p s.p) (o : ShiftOperand)
    {v v' : Byte} (hv : v' = v) (c : Bool) (md : Mode) : ∃ t q,
      (.next ((s.shiftStore o v c).advance md) : Result) = .next t ∧
        (.next ((State.shiftStore { s with p := p } o v' c).advance md) : Result) = .next { t with p := q } ∧
        AgreeWhere P q t.p := by
  rw [hv]
  cases o with
  | accumulator => exact ⟨_, _, rfl, rfl, ((h.withFlag .c c).withFlag .z _).withFlag .n _⟩
  | memory m => exact ⟨_, _, rfl, rfl, h.withFlag .c c⟩

/-- A branch goes the same way on the same condition, and keeps P. -/
theorem State.branchIf_withP {P : Flag → Prop} {s : State} {p : Byte} (h : AgreeWhere P p s.p) {cond cond' : Bool}
    (hcond : cond' = cond) (b1 : Byte) : ∃ t q, (.next (s.branchIf cond b1) : Result) = .next t ∧
      (.next (State.branchIf { s with p := p } cond' b1) : Result) = .next { t with p := q } ∧ AgreeWhere P q t.p := by
  rw [hcond, State.branchIf_eq, State.branchIf_eq]
  exact ⟨_, _, rfl, rfl, h⟩

/-- An instruction other than PHP and BRK takes two states that agree but for flags it does not depend on to states that
agree but for those flags. -/
theorem exec_withP {P : Flag → Prop} {i : Instr} {s : State} {p : Byte} (hphp : i.mnemonic ≠ .php)
    (hbrk : i.mnemonic ≠ .brk) (hread : ∀ f ∈ i.flagsRead, P f) (h : AgreeWhere P p s.p) :
    ∃ t q, exec i s = .next t ∧ exec i { s with p := p } = .next { t with p := q } ∧ AgreeWhere P q t.p := by
  have hflag : ∀ f ∈ i.flagsRead, State.flag { s with p := p } f = s.flag f := fun f hf => h f (hread f hf)
  cases i with
  | adc =>
    have hd := hread .d (List.mem_cons_of_mem _ List.mem_cons_self)
    exact State.addIntoA_withP h (hread .c List.mem_cons_self) hd (State.addend_withP h hd _) (State.addend_withP h hd _) _
  | sbc =>
    have hd := hread .d (List.mem_cons_of_mem _ List.mem_cons_self)
    exact State.addIntoA_withP h (hread .c List.mem_cons_self) hd (State.addend_withP h hd _)
      (congrArg (~~~ ·) (State.addend_withP h hd _)) _
  | and | ora | eor | lda | ldx | ldy | inc | dec | inx | iny | dex | dey | pla | tax | tay | txa | tya | tsx =>
    exact ⟨_, _, rfl, rfl, (h.withFlag .z _).withFlag .n _⟩
  | asl o | lsr o => exact State.shiftStore_withP h o rfl _ _
  | rol o => exact State.shiftStore_withP h o (congrArg (rotateLeft _) (hflag _ List.mem_cons_self)) _ _
  | ror o => exact State.shiftStore_withP h o (congrArg (rotateRight _) (hflag _ List.mem_cons_self)) _ _
  | cmp | cpx | cpy => exact ⟨_, _, rfl, rfl, ((h.withFlag .c _).withFlag .n _).withFlag .z _⟩
  | bcc | bne | bpl | bvc => exact State.branchIf_withP h (congrArg (!·) (hflag _ List.mem_cons_self)) _
  | bcs | beq | bmi | bvs => exact State.branchIf_withP h (hflag _ List.mem_cons_self) _
  | bit => exact ⟨_, _, rfl, rfl, ((h.withFlag .z _).withFlag .v _).withFlag .n _⟩
  | plp | rti => exact ⟨_, _, rfl, rfl, fun _ _ => rfl⟩
  | php => exact absurd rfl hphp
  | brk => exact absurd rfl hbrk
  | sec | clc | sei | cli | sed | cld | clv => exact ⟨_, _, rfl, rfl, h.withFlag _ _⟩
  | _ => exact ⟨_, _, rfl, rfl, h⟩

/-- No instruction depends on I, B or bit 5. -/
theorem flagsRead_effective {i : Instr} {f : Flag} (hf : f ∈ i.flagsRead) : f ∉ [Flag.i, .b, .u] := by
  cases i with
  | adc | sbc =>
    obtain rfl | rfl := List.mem_pair.1 hf
    all_goals nofun
  | rol | ror | bcc | bcs | beq | bne | bmi | bpl | bvc | bvs =>
    obtain rfl := List.mem_singleton.1 hf
    nofun
  | _ => nomatch hf

/-- No instruction but ADC and SBC depends on D. -/
theorem flagsRead_ne_d {i : Instr} (hi : i.mnemonic ∉ [Mnemonic.adc, .sbc]) {f : Flag} (hf : f ∈ i.flagsRead) : f ≠ .d := by
  cases i with
  | adc | sbc => simp [Instr.mnemonic] at hi
  | rol | ror | bcc | bcs | beq | bne | bmi | bpl | bvc | bvs =>
    obtain rfl := List.mem_singleton.1 hf
    nofun
  | _ => nomatch hf

/-- Settles O26: no instruction depends on these three flags. -/
theorem interruptBreakAndUnusedBitsHaveNoEffect : Obligations.InterruptBreakAndUnusedBitsHaveNoEffect :=
  fun _ _ _ hphp hbrk h => exec_withP hphp hbrk (fun _ => flagsRead_effective) h

/-- Settles O27: only ADC and SBC depend on D. -/
theorem decimalModeAffectsOnlyAdcAndSbc : Obligations.DecimalModeAffectsOnlyAdcAndSbc := by
  intro i s p hi h
  obtain ⟨hadc, hsbc, hphp, hbrk⟩ : i.mnemonic ≠ .adc ∧ i.mnemonic ≠ .sbc ∧ i.mnemonic ≠ .php ∧ i.mnemonic ≠ .brk := by
    simpa using hi
  exact exec_withP hphp hbrk (fun _ => flagsRead_ne_d (by simp [hadc, hsbc])) h

end Sys2Proof.Machine

namespace Sys2Proof.Machine

/-! ### ADC and SBC (rules R160 to R162) -/

/-- The value of the sum byte. -/
theorem toNat_sumByte (x y : Byte) (c : Bool) : (sumByte x y c).toNat = (x.toNat + y.toNat + c.toNat) % 256 :=
  BitVec.toNat_ofNat _ _

/-- The value of a byte converted to packed BCD (rule R160). -/
theorem toNat_bin2bcd (r : Byte) : (bin2bcd r).toNat = (r.toNat / 10 * 16 + r.toNat % 10) % 256 :=
  BitVec.toNat_ofNat _ _

/-- The value of the addend ADC and SBC take from a byte; a packed-BCD value is at most 165 and fits a byte. -/
theorem State.toNat_addend (s : State) (v : Byte) :
    (s.addend v).toNat = if s.flag .d then v.toNat / 16 * 10 + v.toNat % 16 else v.toNat := by
  have hv := v.isLt
  unfold State.addend
  split
  · rw [BitVec.toNat_ofNat, bcd2bin]
    omega
  · rfl

/-- The overflow formula on numbers. -/
theorem sumOverflow_iff (x y : Byte) (c : Bool) : sumOverflow x y c = true ↔
    (x.toNat ^^^ (x.toNat + y.toNat + c.toNat) % 256) &&&
      (y.toNat ^^^ (x.toNat + y.toNat + c.toNat) % 256) &&& 0x80 ≠ 0 := by
  rw [sumOverflow, bne_iff_ne, ne_eq, ← BitVec.toNat_inj, BitVec.toNat_and, BitVec.toNat_and, BitVec.toNat_xor,
    BitVec.toNat_xor, toNat_sumByte]
  rfl

/-- What the tail of ADC and SBC does with the two addends as numbers: the result, the flags and the frame. -/
def SumsIntoA (s : State) (x y : Nat) (md : Mode) (t : State) : Prop :=
  let sum := x + y + (s.flag .c).toNat
  let r := sum % 256
  t.a.toNat = (if s.flag .d then (r / 10 * 16 + r % 10) % 256 else r) ∧
    (t.flag .c = true ↔ 256 ≤ sum) ∧
    (t.flag .v = true ↔ (x ^^^ r) &&& (y ^^^ r) &&& 0x80 ≠ 0) ∧
    ZNof t.a t ∧ ChangesOnly [.a] [.c, .v, .z, .n] s t ∧ SameBytes s t ∧ Advanced md s t

/-- The carry ADC and SBC leave. -/
theorem State.addIntoA_flag_c (s : State) (x y : Byte) : (s.addIntoA x y).flag .c = sumCarry x y (s.flag .c) := by
  simp

/-- The overflow ADC and SBC leave. -/
theorem State.addIntoA_flag_v (s : State) (x y : Byte) : (s.addIntoA x y).flag .v = sumOverflow x y (s.flag .c) := by
  simp

/-- The tail of ADC and SBC and the default advance. -/
theorem State.addIntoA_advance_sums (s : State) (x y : Byte) (md : Mode) :
    SumsIntoA s x.toNat y.toNat md ((s.addIntoA x y).advance md) := by
  refine ⟨?_, ?_, ?_, State.zNof_writeA_advance _ _ _, (s.addIntoA_changesOnly x y).advance md, sameBytes_of_mem rfl,
    advanced_advance md rfl⟩
  · rw [State.advance_a, State.addIntoA_a]
    split
    · rw [toNat_bin2bcd, toNat_sumByte]
    · exact toNat_sumByte x y _
  · rw [State.advance_flag, State.addIntoA_flag_c, sumCarry, decide_eq_true_iff]
    rfl
  · rw [State.advance_flag, State.addIntoA_flag_v]
    exact sumOverflow_iff x y _

/-- Settles O28: ADC sums A and the operand into A, each as the addend it is. -/
theorem adcResult : Obligations.AdcResult := by
  intro o s val x y sum r
  have hx : (s.addend s.a).toNat = x := s.toNat_addend s.a
  have hy : (s.addend (s.load o)).toNat = y := s.toNat_addend (s.load o)
  have hsums := s.addIntoA_advance_sums (s.addend s.a) (s.addend (s.load o)) o.mode
  rw [hx, hy] at hsums
  exact ⟨_, rfl, hsums⟩

/-- Settles O29: SBC sums A and the ones' complement of the operand's addend into A. -/
theorem sbcResult : Obligations.SbcResult := by
  intro opcode o s val x y sum r
  have hx : (s.addend s.a).toNat = x := s.toNat_addend s.a
  have hy : (~~~ s.addend (s.load o)).toNat = y := by
    rw [BitVec.toNat_not, s.toNat_addend]
  have hsums := s.addIntoA_advance_sums (s.addend s.a) (~~~ s.addend (s.load o)) o.mode
  rw [hx, hy] at hsums
  exact ⟨_, rfl, hsums⟩

/-- Bit 7 of a byte, by mask. -/
theorem and_0x80_ne_zero_iff (v : Byte) : v &&& 0x80 ≠ 0 ↔ v.msb = true := by
  revert v
  decide +kernel

/-- The overflow formula says that the signed sum leaves the range of a byte. -/
theorem sumOverflow_iff_signed (x y : Byte) (c : Bool) : sumOverflow x y c = true ↔
    x.toInt + y.toInt + c.toNat < -128 ∨ 127 < x.toInt + y.toInt + c.toNat := by
  have hx := x.isLt
  have hy := y.isLt
  have hc : c.toNat ≤ 1 := Bool.toNat_le c
  have hsum := toNat_sumByte x y c
  have hbits : sumOverflow x y c = true ↔ x.msb ≠ (sumByte x y c).msb ∧ y.msb ≠ (sumByte x y c).msb := by
    rw [sumOverflow, bne_iff_ne, and_0x80_ne_zero_iff, BitVec.msb_and, BitVec.msb_xor, BitVec.msb_xor, Bool.and_eq_true,
      bne_iff_ne, bne_iff_ne]
  rw [hbits, BitVec.msb_eq_decide, BitVec.msb_eq_decide, BitVec.msb_eq_decide, hsum, ne_eq, ne_eq, decide_eq_decide,
    decide_eq_decide, BitVec.toInt_eq_toNat_cond, BitVec.toInt_eq_toNat_cond]
  omega

/-- What the tail of ADC and SBC leaves in binary mode: the sum modulo 256, the carry and the signed overflow. -/
theorem State.addIntoA_binary (s : State) (x y : Byte) (md : Mode) (hd : s.flag .d = false) :
    (((s.addIntoA x y).advance md).a.toNat : Int) = (x.toNat + y.toNat + (s.flag .c).toNat) % 256 ∧
      (((s.addIntoA x y).advance md).flag .c = true ↔ (255 : Int) < x.toNat + y.toNat + (s.flag .c).toNat) ∧
      (((s.addIntoA x y).advance md).flag .v = true ↔
        x.toInt + y.toInt + (s.flag .c).toNat < -128 ∨ 127 < x.toInt + y.toInt + (s.flag .c).toNat) := by
  obtain ⟨ha, hc, _⟩ := s.addIntoA_advance_sums x y md
  refine ⟨?_, ?_, ?_⟩
  · rw [ha, hd]
    rfl
  · rw [hc]
    omega
  · rw [State.advance_flag, State.addIntoA_flag_v]
    exact sumOverflow_iff_signed x y _

/-- The ones' complement of a byte, signed. -/
theorem toInt_byte_not (v : Byte) : (~~~ v).toInt = -1 - v.toInt := by
  have hv := v.isLt
  rw [BitVec.toInt_eq_toNat_cond, BitVec.toInt_eq_toNat_cond, BitVec.toNat_not]
  omega

/-- Settles O30: SBC adds the ones' complement, which is 255 less the operand as a number and -1 less it when signed. -/
theorem binaryAddAndSubtractFlagsAreStandard : Obligations.BinaryAddAndSubtractFlagsAreStandard := by
  intro o opcode s hd c ua um sa sm
  have haddend : ∀ v, s.addend v = v := fun v => by simp [State.addend, hd]
  have hc : ((s.flag .c).toNat : Int) = c := by cases hf : s.flag .c <;> simp [c, hf]
  have hadc : exec (.adc o) s = .next ((s.addIntoA s.a (s.load o)).advance o.mode) := by
    rw [exec, execAdc, haddend, haddend]
  have hsbc : exec (.sbc opcode o) s = .next ((s.addIntoA s.a (~~~ s.load o)).advance o.mode) := by
    rw [exec, execSbc, haddend, haddend]
  have hnot : ((~~~ s.load o).toNat : Int) = 255 - um := by
    have := (s.load o).isLt
    rw [BitVec.toNat_not]
    omega
  have hnotInt : (~~~ s.load o).toInt = -1 - sm := toInt_byte_not _
  refine ⟨⟨_, hadc, ?_⟩, ⟨_, hsbc, ?_⟩⟩
  · have h := s.addIntoA_binary s.a (s.load o) o.mode hd
    rwa [hc] at h
  · obtain ⟨ha, hcarry, hv⟩ := s.addIntoA_binary s.a (~~~ s.load o) o.mode hd
    rw [hc, hnot] at ha hcarry
    rw [hc, hnotInt] at hv
    rw [ha, hcarry, hv]
    refine ⟨?_, ?_, ?_⟩ <;> omega

/-- Settles O31: valid digits make addends of at most 99, so the sum is below 256, and below 100 it converts back digit by
digit. -/
theorem decimalAddOfValidDigits : Obligations.DecimalAddOfValidDigits := by
  intro o s hd hahi halo hmhi hmlo dec sum
  obtain ⟨t, hexec, ha, hc, _⟩ := adcResult o s
  simp only [hd, if_true] at ha hc
  have hcarry : (s.flag .c).toNat ≤ 1 := Bool.toNat_le _
  have hsum : sum ≤ 199 := by
    simp only [sum, dec]
    omega
  refine ⟨t, hexec, ?_, fun hlt => ?_⟩
  · rw [← Bool.not_eq_true, hc]
    omega
  · have ha' : t.a.toNat = (sum % 256 / 10 * 16 + sum % 256 % 10) % 256 := ha
    rw [ha']
    omega

end Sys2Proof.Machine

namespace Sys2Proof.Machine

/-! ### Shifts and rotates (rules R175 to R179) -/

/-- The value of a byte shifted left (rule R176). -/
theorem toNat_shiftLeft (v : Byte) : (shiftLeft v).toNat = v.toNat * 2 % 256 := by
  rw [shiftLeft, BitVec.toNat_shiftLeft, Nat.shiftLeft_eq]

/-- The value of a byte shifted right (rule R177). -/
theorem toNat_shiftRight (v : Byte) : (shiftRight v).toNat = v.toNat / 2 := by
  rw [shiftRight, BitVec.toNat_ushiftRight, Nat.shiftRight_eq_div_pow]

/-- The value of a byte rotated left: the carry enters bit 0, which the shift has cleared (rule R178). -/
theorem toNat_rotateLeft (v : Byte) (c : Bool) : (rotateLeft v c).toNat = (v.toNat * 2 + c.toNat) % 256 := by
  revert v c
  decide +kernel

/-- The value of a byte rotated right: the carry enters bit 7, which the shift has cleared (rule R179). -/
theorem toNat_rotateRight (v : Byte) (c : Bool) : (rotateRight v c).toNat = v.toNat / 2 + c.toNat * 128 := by
  revert v c
  decide +kernel

/-- Settles O33: each is a write of C and of A, with the shifted value of A. -/
theorem accumulatorShiftResults : Obligations.AccumulatorShiftResults := by
  intro s e he
  obtain ⟨r, hexec, hr⟩ : ∃ r : Byte,
      exec e.1 s = .next ((s.shiftStore .accumulator r e.2.2).advance .implied) ∧ r.toNat = e.2.1 := by
    simp only [List.mem_cons, List.not_mem_nil, or_false] at he
    obtain rfl | rfl | rfl | rfl := he
    · exact ⟨_, rfl, toNat_shiftLeft s.a⟩
    · exact ⟨_, rfl, toNat_shiftRight s.a⟩
    · exact ⟨_, rfl, toNat_rotateLeft s.a _⟩
    · exact ⟨_, rfl, toNat_rotateRight s.a _⟩
  exact ⟨_, hexec, hr, by simp, State.zNof_writeA_advance _ _ _,
    (s.shiftStore_accumulator_changesOnly r e.2.2).advance .implied, sameBytes_of_mem rfl, advanced_advance .implied rfl⟩

/-- Settles O34: each is a write of C and of one byte, with the shifted value of that byte. -/
theorem memoryShiftResults : Obligations.MemoryShiftResults := by
  intro m s ⟨hwf, _⟩ v e he
  obtain ⟨r, hexec, hr⟩ : ∃ r : Byte,
      exec e.1 s = .next ((s.shiftStore (.memory m) r e.2.2).advance m.mode) ∧ r.toNat = e.2.1 := by
    simp only [List.mem_cons, List.not_mem_nil, or_false] at he
    obtain rfl | rfl | rfl | rfl := he
    · exact ⟨_, rfl, toNat_shiftLeft v⟩
    · exact ⟨_, rfl, toNat_shiftRight v⟩
    · exact ⟨_, rfl, toNat_rotateLeft v _⟩
    · exact ⟨_, rfl, toNat_rotateRight v _⟩
  have hstored : ((s.shiftStore (.memory m) r e.2.2).advance m.mode).memRead (s.effectiveAddress m) = r :=
    (s.memRead_memWrite _ _ r hwf).trans (if_pos rfl)
  exact ⟨_, hexec, (congrArg BitVec.toNat hstored).trans hr, by simp,
    (s.shiftStore_memory_changesOnly m r e.2.2).advance m.mode, sameBytesOutside_of_mem rfl, advanced_advance m.mode rfl⟩

/-! ### Compares, branches, BIT and JMP (rules R182 to R208) -/

/-- Settles O35: each is Compare of A with its right value and the default advance. -/
theorem compareResults : Obligations.CompareResults := by
  intro o s e he
  have hexec : exec e.1 s = .next ((s.compare s.a e.2).advance o.mode) := by
    simp only [List.mem_cons, List.not_mem_nil, or_false] at he
    obtain rfl | rfl | rfl := he
    all_goals rfl
  refine ⟨_, hexec, by simp, by simp, ?_, (s.compare_changesOnly s.a e.2).advance o.mode, sameBytes_of_mem rfl,
    advanced_advance o.mode rfl⟩
  simp [BitVec.toNat_inj]

/-- The value of a taken branch's target (rule R196). -/
theorem State.toNat_branchTarget (s : State) (b1 : Byte) :
    ((s.branchTarget b1).toNat : Int) = ((s.pc.toNat : Int) + 2 + b1.toInt) % 65536 := by
  have hpc : ((s.pc + 2).toNat : Int) = ((s.pc.toNat : Int) + 2) % 65536 := by
    rw [BitVec.toNat_add]
    rfl
  rw [State.branchTarget, add_branchOffset, BitVec.toNat_ofInt, Int.toNat_of_nonneg (Int.emod_nonneg _ (by decide)), hpc]
  exact Int.emod_add_emod _ 65536 b1.toInt

/-- Settles O38: a branch is a write of PC, with the target on its condition and PC + 2 otherwise. -/
theorem branchResults : Obligations.BranchResults := by
  intro b1 s e he
  have hexec : exec e.1 s = .next (s.branchIf (s.flag e.2.1 == e.2.2) b1) := by
    simp only [List.mem_cons, List.not_mem_nil, or_false] at he
    obtain rfl | rfl | rfl | rfl | rfl | rfl | rfl | rfl := he
    all_goals simp [exec, execBcc, execBcs, execBeq, execBmi, execBne, execBpl, execBvc, execBvs]
  refine ⟨_, hexec, fun htaken => ?_, fun hnot => ?_, s.branchIf_changesOnly _ b1, sameBytes_of_mem (s.branchIf_mem _ b1)⟩
  · rw [beq_iff_eq.2 htaken]
    exact s.toNat_branchTarget b1
  · rw [beq_eq_false_iff_ne.2 hnot, State.branchIf_eq]
    exact BitVec.toNat_add s.pc 2

/-- A masked byte is 0 when the two bytes have no bit in common. -/
theorem and_eq_zero_iff (a v : Byte) : a &&& v = 0 ↔ ∀ k, k < 8 → ¬ (a.getLsbD k = true ∧ v.getLsbD k = true) := by
  have hbit : ∀ k, (a &&& v).getLsbD k = (0 : Byte).getLsbD k ↔ ¬ (a.getLsbD k = true ∧ v.getLsbD k = true) := by
    intro k
    simp [BitVec.getLsbD_and]
  simp only [← hbit]
  exact ⟨fun h k _ => by rw [h], BitVec.eq_of_getLsbD_eq⟩

/-- Settles O39: BIT writes Z, V and N from the operand and advances. -/
theorem bitResult : Obligations.BitResult := by
  intro m s v
  refine ⟨(s.testBits v).advance m.mode, rfl, ?_, by simp, by simp, (s.testBits_changesOnly v).advance m.mode,
    sameBytes_of_mem rfl, advanced_advance m.mode rfl⟩
  have hz : ((s.testBits v).advance m.mode).flag .z = ((s.a &&& v) == 0) := by simp
  rw [hz, beq_iff_eq]
  exact and_eq_zero_iff s.a v

/-- Settles O40: JMP writes PC with its address or with the word at its pointer. -/
theorem jmpResult : Obligations.JmpResult := by
  intro a s
  refine ⟨⟨_, rfl, rfl, s.setPC_changesOnly a, sameBytes_of_mem rfl⟩,
    ⟨_, rfl, ?_, s.setPC_changesOnly _, sameBytes_of_mem rfl⟩⟩
  have hnext : BitVec.ofNat 16 (a.toNat + 1) = a + 1 := by
    rw [BitVec.ofNat_add, BitVec.ofNat_toNat, BitVec.setWidth_eq]
    rfl
  rw [hnext]
  exact s.toNat_readWord a (a + 1)

/-! ### The stack instructions, BRK and RTI (rules R210 to R220, R279, R280) -/

/-- Settles O42: RTS pulls the word in the two cells counted 1 and 2 from SP and continues 1 past it. -/
theorem rtsResult : Obligations.RtsResult := by
  intro s cell
  have hcell : ∀ k, cell k = stackAddr (s.sp + BitVec.ofNat 8 k) := ofNat_add_mod_eq_stackAddr s.sp
  have htwo : s.sp + BitVec.ofNat 8 2 = s.sp + 1 + 1 := (BitVec.add_assoc s.sp 1 1).symm
  rw [hcell, hcell, htwo]
  refine ⟨s.pull.pull.setPC (s.pulledWord + 1), rfl, ?_, ?_, s.setSP_changesOnly _, sameBytes_of_mem rfl⟩
  · rw [State.setPC_pc, BitVec.toNat_add, State.pulledWord_eq, toNat_wordOf]
    rfl
  · rw [State.setPC_sp, State.pull_sp, State.pull_sp]
    bv_omega

/-- Settles O43: RTS pulls from the two cells JSR pushed into. -/
theorem rtsResumesAfterJsr : Obligations.RtsResumesAfterJsr := by
  intro target s t u hinv hexec hsp hbytes
  obtain ⟨t', hexec', hhigh, hlow, hsp', _⟩ := jsrResult target s hinv
  obtain rfl := Host.Outcome.next.inj (hexec.symm.trans hexec')
  obtain ⟨v, hrts, hpc, hspv, _⟩ := rtsResult u
  have h2 : (u.sp.toNat + 2) % 256 = (s.sp.toNat + 0) % 256 := by
    rw [hsp, hsp']
    omega
  have h1 : (u.sp.toNat + 1) % 256 = (s.sp.toNat + 255) % 256 := by
    rw [hsp, hsp']
    omega
  beta_reduce at hpc hhigh hlow
  rw [h2, h1, hbytes, hbytes, hhigh, hlow] at hpc
  refine ⟨v, hrts, by omega, ?_⟩
  have := s.sp.isLt
  exact BitVec.eq_of_toNat_eq (by omega)

end Sys2Proof.Machine

namespace Sys2Proof.Machine

/-! ### BRK and RTI (rules R211, R212, R279, R280) -/

/-- Trap entry leaves memory as its pushes do: writing PC after them reads the vector and stores nothing. -/
theorem State.enterTrap_memRead (s : State) (a : Addr) : s.enterTrap.memRead a =
    (((s.setFlag .b true).pushWord (s.pc + 2)).push (s.setFlag .b true).p).memRead a := by
  simp only [State.enterTrap, State.setPC_memRead]

/-- Trap entry stores P, with B set, two cells below SP. -/
theorem State.enterTrap_memRead_p (s : State) (h : s.mem.wf) :
    s.enterTrap.memRead (stackAddr (s.sp - 1 - 1)) = s.enterTrap.p := by
  rw [State.enterTrap_memRead]
  exact State.push_memRead_stackAddr _ _ (State.pushWord_wf _ _ h)

/-- Trap entry leaves in the cells above P's what its two-byte push stored there. -/
theorem State.enterTrap_memRead_other (s : State) {sp : Byte} (h : sp ≠ s.sp - 1 - 1) :
    s.enterTrap.memRead (stackAddr sp) = ((s.setFlag .b true).pushWord (s.pc + 2)).memRead (stackAddr sp) := by
  rw [State.enterTrap_memRead]
  exact State.push_memRead_stackAddr_other _ _ h

/-- Trap entry stores the high byte of PC + 2 at SP. -/
theorem State.enterTrap_memRead_high (s : State) (h : s.mem.wf) :
    s.enterTrap.memRead (stackAddr s.sp) = highByte (s.pc + 2) := by
  rw [s.enterTrap_memRead_other (by bv_omega)]
  exact (s.setFlag .b true).pushWord_memRead_high (s.pc + 2) h

/-- Trap entry stores the low byte of PC + 2 in the cell below SP. -/
theorem State.enterTrap_memRead_low (s : State) (h : s.mem.wf) :
    s.enterTrap.memRead (stackAddr (s.sp - 1)) = lowByte (s.pc + 2) := by
  rw [s.enterTrap_memRead_other (by bv_omega)]
  exact (s.setFlag .b true).pushWord_memRead_low (s.pc + 2) h

/-- Trap entry stores into the mirror groups of its three stack cells alone. -/
theorem State.enterTrap_sameBytesOutside (s : State) :
    SameBytesOutside [stackAddr s.sp, stackAddr (s.sp - 1), stackAddr (s.sp - 1 - 1)] s s.enterTrap := by
  have hword := (s.setFlag .b true).pushWord_sameBytesOutside (s.pc + 2)
  have hp := ((s.setFlag .b true).pushWord (s.pc + 2)).push_sameBytesOutside (s.setFlag .b true).p
  exact hword.trans hp

/-- An address above the mirrored ranges is in no stack cell's mirror group. -/
theorem not_mirrorGroup_stackAddr (sp : Byte) {a : Addr} (ha : 0x4000 ≤ a.toNat) : ¬ MirrorGroup (stackAddr sp) a := by
  have hsp := sp.isLt
  rw [mirrorGroup_iff, cellOf_stackAddr]
  obtain h | h | h := cellOf_cases a <;> omega

/-- Trap entry leaves the bytes above the mirrored ranges, and so the vector, as they were. -/
theorem State.enterTrap_memRead_above (s : State) {a : Addr} (ha : 0x4000 ≤ a.toNat) :
    s.enterTrap.memRead a = s.memRead a := by
  refine s.enterTrap_sameBytesOutside a fun w hw => ?_
  obtain rfl | rfl | rfl : w = stackAddr s.sp ∨ w = stackAddr (s.sp - 1) ∨ w = stackAddr (s.sp - 1 - 1) := by
    simpa using hw
  all_goals exact not_mirrorGroup_stackAddr _ ha

/-- Trap entry continues at the word the vector held before it. -/
theorem State.toNat_enterTrap_pc (s : State) :
    s.enterTrap.pc.toNat = (s.memRead 0xFFFF).toNat * 256 + (s.memRead 0xFFFE).toNat := by
  calc s.enterTrap.pc.toNat
      = (s.enterTrap.memRead 0xFFFF).toNat * 256 + (s.enterTrap.memRead 0xFFFE).toNat := State.toNat_readWord _ _ _
    _ = (s.memRead 0xFFFF).toNat * 256 + (s.memRead 0xFFFE).toNat := by
      rw [s.enterTrap_memRead_above (by decide), s.enterTrap_memRead_above (by decide)]

/-- Settles O44: trap entry pushes PC + 2 and P into three cells, none of them the vector's. -/
theorem brkTakesTheTrap : Obligations.BrkTakesTheTrap := by
  intro s ⟨hwf, _⟩ cell ret
  have hret : (s.pc + 2).toNat = ret := BitVec.toNat_add s.pc 2
  have h0 : cell 0 = stackAddr s.sp :=
    (ofNat_add_mod_eq_stackAddr s.sp 0).trans (congrArg stackAddr (BitVec.add_zero s.sp))
  have h255 : cell 255 = stackAddr (s.sp - 1) :=
    (ofNat_add_mod_eq_stackAddr s.sp 255).trans (congrArg stackAddr (by bv_omega))
  have h254 : cell 254 = stackAddr (s.sp - 1 - 1) :=
    (ofNat_add_mod_eq_stackAddr s.sp 254).trans (congrArg stackAddr (by bv_omega))
  rw [h0, h255, h254, ← hret]
  refine ⟨s.enterTrap, rfl, ?_, ?_, s.enterTrap_memRead_p hwf, by simp, ?_, s.toNat_enterTrap_pc, s.enterTrap_changesOnly,
    s.enterTrap_sameBytesOutside⟩
  · rw [s.enterTrap_memRead_high hwf, toNat_highByte]
  · rw [s.enterTrap_memRead_low hwf, toNat_lowByte]
  · rw [State.enterTrap_sp]
    bv_omega

/-- Settles O45: trap return pulls P and then PC from the three cells above SP. -/
theorem rtiResult : Obligations.RtiResult := by
  intro s cell
  have h1 : cell 1 = stackAddr (s.sp + 1) := ofNat_add_mod_eq_stackAddr s.sp 1
  have h2 : cell 2 = stackAddr (s.sp + 1 + 1) :=
    (ofNat_add_mod_eq_stackAddr s.sp 2).trans (congrArg stackAddr (by bv_omega))
  have h3 : cell 3 = stackAddr (s.sp + 1 + 1 + 1) :=
    (ofNat_add_mod_eq_stackAddr s.sp 3).trans (congrArg stackAddr (by bv_omega))
  rw [h1, h2, h3]
  refine ⟨s.returnFromTrap, rfl, rfl, ?_, ?_, s.returnFromTrap_changesOnly, sameBytes_of_mem rfl⟩
  · rw [State.returnFromTrap_pc, toNat_wordOf]
  · rw [State.returnFromTrap_sp]
    bv_omega

/-- Settles O46: RTI pulls from the three cells BRK pushed into. -/
theorem rtiResumesAfterBrk : Obligations.RtiResumesAfterBrk := by
  intro s t u hinv hexec hsp hbytes
  obtain ⟨t', hexec', hhigh, hlow, hp, hb, hsp', _, ⟨_, hflags, _⟩, _⟩ := brkTakesTheTrap s hinv
  obtain rfl := Host.Outcome.next.inj (hexec.symm.trans hexec')
  obtain ⟨v, hrti, hpv, hpc, hspv, _⟩ := rtiResult u
  have h1 : (u.sp.toNat + 1) % 256 = (s.sp.toNat + 254) % 256 := by
    rw [hsp, hsp']
    omega
  have h2 : (u.sp.toNat + 2) % 256 = (s.sp.toNat + 255) % 256 := by
    rw [hsp, hsp']
    omega
  have h3 : (u.sp.toNat + 3) % 256 = (s.sp.toNat + 0) % 256 := by
    rw [hsp, hsp']
    omega
  beta_reduce at hpv hpc hhigh hlow hp
  rw [h1, hbytes, hp] at hpv
  rw [h2, h3, hbytes, hbytes, hhigh, hlow] at hpc
  have hflag : ∀ f, v.flag f = t.flag f := fun f => congrArg (flagOf · f) hpv
  have hlt := s.sp.isLt
  refine ⟨v, hrti, by omega, BitVec.eq_of_toNat_eq (by omega), (hflag .b).trans hb, fun f hf => ?_⟩
  exact (hflag f).trans (hflags f (by simpa using hf))

/-! ### PHP, PLP, the flag instructions, NOP and STP (rules R218 to R235) -/

/-- Settles O48: PHP is a push of P and the default advance. -/
theorem phpPushesPAsHeld : Obligations.PhpPushesPAsHeld := by
  intro s ⟨hwf, _⟩ cell
  have hcell : cell 0 = stackAddr s.sp :=
    (ofNat_add_mod_eq_stackAddr s.sp 0).trans (congrArg stackAddr (BitVec.add_zero s.sp))
  rw [hcell]
  refine ⟨(s.push s.p).advance .implied, rfl, ?_, toNat_byte_sub_one s.sp, (s.push_changesOnly s.p).advance .implied,
    s.push_sameBytesOutside s.p, advanced_advance .implied rfl⟩
  rw [State.advance_memRead, s.push_memRead_stackAddr s.p hwf]

/-- Settles O50: PLP is a pull, a write of the pulled byte to P and the default advance. -/
theorem plpPullsAllOfP : Obligations.PlpPullsAllOfP := by
  intro s cell
  have hpulled : s.pulled = s.memRead (cell 1) :=
    congrArg s.memRead (ofNat_add_mod_eq_stackAddr s.sp 1).symm
  exact ⟨(s.pull.setP s.pulled).advance .implied, rfl, hpulled, BitVec.toNat_add s.sp 1,
    (s.pull_setP_changesOnly s.pulled).advance .implied, sameBytes_of_mem rfl, advanced_advance .implied rfl⟩

/-- Settles O52: each is a write of its flag and the default advance. -/
theorem flagSetAndClearResults : Obligations.FlagSetAndClearResults := by
  intro s e he
  have hexec : exec e.1 s = .next ((s.setFlag e.2.1 e.2.2).advance .implied) := by
    simp only [List.mem_cons, List.not_mem_nil, or_false] at he
    obtain rfl | rfl | rfl | rfl | rfl | rfl | rfl := he
    all_goals rfl
  exact ⟨_, hexec, by simp, (s.setFlag_changesOnly _ _).advance .implied, sameBytes_of_mem rfl,
    advanced_advance .implied rfl⟩

/-- Settles O53: NOP is the default advance alone, and STP writes the run state before it. -/
theorem nopAndStpResults : Obligations.NopAndStpResults :=
  ⟨fun _ o s => ⟨_, rfl, (ChangesOnly.refl s).advance o.mode, sameBytes_of_mem rfl, advanced_advance o.mode rfl⟩,
    fun _ s => ⟨_, rfl, rfl, (ChangesOnly.refl s).advance .implied, sameBytes_of_mem rfl, advanced_advance .implied rfl⟩⟩

/-! ### Loads and stores (rules R247 to R252) -/

/-- Settles O54: each is a write of its register with Z and N and the default advance. -/
theorem loadResults : Obligations.LoadResults := by
  intro o s e he
  simp only [List.mem_cons, List.not_mem_nil, or_false] at he
  obtain rfl | rfl | rfl := he
  · exact ⟨_, rfl, rfl, s.zNof_writeA_advance (s.load o) o.mode, s.writeA_advance_frame (s.load o) o.mode⟩
  · exact ⟨_, rfl, rfl, s.setX_setZN_advance_frame (s.load o) o.mode⟩
  · exact ⟨_, rfl, rfl, s.setY_setZN_advance_frame (s.load o) o.mode⟩

/-- Settles O55: each is one write at the effective address, which its whole mirror group reads, and the default advance. -/
theorem storeResults : Obligations.StoreResults := by
  intro m s hinv e he
  have hexec : exec e.1 s = .next ((s.memWrite (s.effectiveAddress m) e.2).advance m.mode) := by
    simp only [List.mem_cons, List.not_mem_nil, or_false] at he
    obtain rfl | rfl | rfl := he
    all_goals rfl
  exact ⟨_, hexec, fun b => (mirrorGroupsShareOneCell s (s.effectiveAddress m) b e.2 hinv).1,
    (s.memWrite_changesOnly _ e.2).advance m.mode, sameBytesOutside_of_mem rfl, advanced_advance m.mode rfl⟩

end Sys2Proof.Machine
